-- ==== Sys2Proof/Word.lean ====
section
/-! DEFINITION. The bit-vector types of the command port: the command word (30_encoding.md R49, R51) and the
two-bit completion code (R52). Bit 0 is the least significant bit (00_scope.md R10). A W-bit word of the engine is
`BitVec W` itself: addition and multiplication are modulo 2^W, and the two shifts are logical (R11). -/

namespace Sys2Proof

/-- A command word, `cmd_in[7:0]` (R49, R51). -/
abbrev Byte := BitVec 8

/-- A completion code, `rsp_status[1:0]` (R49, R52). -/
abbrev StatusCode := BitVec 2

end Sys2Proof
end

