-- ==== Sys2Proof/Config.lean ====
section
/-! DEFINITION. What is fixed when the hardware is built: the variant (00_scope.md R2, R3), its word width (R9), its
identity strings (R4), and which variant this package's reset state is (notes/assumptions/1.md). -/

namespace Sys2Proof

/-- The two variants of the engine (R2). There is no third one (R104). -/
inductive Variant where
  | tinymt32
  | tinymt64
  deriving DecidableEq, Repr

/-- The word width W of a variant (R2, R9). -/
abbrev Variant.width : Variant → Nat
  | .tinymt32 => 32
  | .tinymt64 => 64

/-- The ISA identity string of a variant (R4). -/
def Variant.identity : Variant → String
  | .tinymt32 => "TINYMT32"
  | .tinymt64 => "TINYMT64"

/-- The vendor (R4). -/
def Config.vendor : String := "vfragoso"

/-- DESIGN CHOICE (notes/assumptions/1.md): the variant of `State.reset` and of the bare words given to
`decodeTableWord`. The spec builds either variant; every meaning of this model is defined for both. -/
def Config.resetVariant : Variant := .tinymt32

end Sys2Proof
end

