-- ==== Sys2Proof/Syntax.lean ====
section
/-! DEFINITION. The commands (30_encoding.md R54): one constructor for each row of spec/opcode_table.json, and the
transaction that carries one over the port (R50, R62). NextState, Extract and the seeding steps are internal
operations without an opcode (R54), so they are no constructors. -/

namespace Sys2Proof

/-- A command with its operand. Only CONSTRUCT has one (R53): the seed, written as the unsigned integer literal
of R59, whose range is the business of `Instr.wellFormed`. -/
inductive Instr where
  | construct (seed : Nat)
  | constructDefault
  | reset
  | generate
  | minValue
  | maxValue
  | initialSeed
  deriving DecidableEq, Repr

/-- The mnemonics of R54. -/
inductive Mnemonic where
  | construct
  | constructDefault
  | reset
  | generate
  | minValue
  | maxValue
  | initialSeed
  deriving DecidableEq, Repr

/-- The mnemonic of a command. -/
def Instr.mnemonic : Instr → Mnemonic
  | .construct _ => .construct
  | .constructDefault => .constructDefault
  | .reset => .reset
  | .generate => .generate
  | .minValue => .minValue
  | .maxValue => .maxValue
  | .initialSeed => .initialSeed

/-- The command of a mnemonic; `seed` is looked at for CONSTRUCT only (R50, R53). -/
def Mnemonic.instr (seed : Nat) : Mnemonic → Instr
  | .construct => .construct seed
  | .constructDefault => .constructDefault
  | .reset => .reset
  | .generate => .generate
  | .minValue => .minValue
  | .maxValue => .maxValue
  | .initialSeed => .initialSeed

/-- One transaction as the host presents it: the command word and the seed operand (R50, R62). -/
structure Transaction (w : Nat) where
  cmdIn : Byte
  seedIn : BitVec w
  deriving DecidableEq, Repr

end Sys2Proof
end

