-- ==== Sys2Proof/WellFormed.lean ====
section
/-! DEFINITION. What is refused before the machine runs: a word width no variant has (60_exceptions.md R104) and a
seed literal outside the word (30_encoding.md R59, 93_implementation_defined.md I6). -/

namespace Sys2Proof

/-- Elaboration: the variant of a requested word width; any width but 32 and 64 is refused (R104). -/
def elaborate (w : Nat) : Option Variant :=
  if w = 32 then some .tinymt32 else if w = 64 then some .tinymt64 else none

/-- A configuration is well formed when it elaborates (R104). -/
def wellFormedWidth (w : Nat) : Bool := (elaborate w).isSome

/-- A command is well formed for a variant when its seed literal lies in 0 ≤ seed ≤ 2^W − 1 (R59); a command
without an operand always is. -/
def Instr.wellFormed (v : Variant) : Instr → Bool
  | .construct seed => decide (seed < 2 ^ v.width)
  | .constructDefault => true
  | .reset => true
  | .generate => true
  | .minValue => true
  | .maxValue => true
  | .initialSeed => true

end Sys2Proof
end

