-- ==== Sys2Proof/Decode.lean ====
section
/-! DEFINITION. The decoder and the encoder of format C8 (30_encoding.md R51, R54 to R57, R62). The decoder is total:
every command word is one of the seven rows of R54 or is rejected as illegal (R55, R57). -/

namespace Sys2Proof

/-- A row of the opcode map: a word matches when its bits under `mask` are `pattern` (R54). -/
structure OpcodeRow where
  pattern : Byte
  mask : Byte
  mnemonic : Mnemonic
  deriving DecidableEq, Repr

/-- The opcode map of R54; each mask is 0xff because the word is decoded as a whole (R51). -/
def opcodeMap : List OpcodeRow :=
  [ ⟨0x01#8, 0xff#8, .construct⟩,
    ⟨0x02#8, 0xff#8, .constructDefault⟩,
    ⟨0x03#8, 0xff#8, .reset⟩,
    ⟨0x04#8, 0xff#8, .generate⟩,
    ⟨0x05#8, 0xff#8, .minValue⟩,
    ⟨0x06#8, 0xff#8, .maxValue⟩,
    ⟨0x07#8, 0xff#8, .initialSeed⟩ ]

/-- Does the row match the command word (R54)? -/
def OpcodeRow.matchesWord (r : OpcodeRow) (cmdIn : Byte) : Bool := cmdIn &&& r.mask == r.pattern

/-- The mnemonic a command word selects, if any (R54, R57). -/
def selectMnemonic (cmdIn : Byte) : Option Mnemonic :=
  (opcodeMap.find? fun r => r.matchesWord cmdIn).map OpcodeRow.mnemonic

/-- Why a transaction is no command. -/
inductive Rejection where
  /-- The command word is none of R54's (R55). -/
  | illegal (cmdIn : Byte)
  deriving DecidableEq, Repr

/-- The decoder (R50, R53, R54, R57): the command word selects the command, and `seed_in` is sampled for CONSTRUCT,
all W bits of it and unmodified. -/
def decode (v : Variant) (t : Transaction v.width) : Except Rejection Instr :=
  match selectMnemonic t.cmdIn with
  | some m => .ok (m.instr t.seedIn.toNat)
  | none => .error (.illegal t.cmdIn)

/-- The command word of a command (R54), written from the table's own column and not from `opcodeMap`. -/
def Instr.opcode : Instr → Byte
  | .construct _ => 0x01#8
  | .constructDefault => 0x02#8
  | .reset => 0x03#8
  | .generate => 0x04#8
  | .minValue => 0x05#8
  | .maxValue => 0x06#8
  | .initialSeed => 0x07#8

/-- What the host drives on `seed_in` with a command: the seed for CONSTRUCT, and `dontCare` for every other
command, where R62 writes a dash. -/
def Instr.seedPort (v : Variant) (dontCare : BitVec v.width) : Instr → BitVec v.width
  | .construct seed => BitVec.ofNat v.width seed
  | .constructDefault => dontCare
  | .reset => dontCare
  | .generate => dontCare
  | .minValue => dontCare
  | .maxValue => dontCare
  | .initialSeed => dontCare

/-- The encoder (R62): a command as the pair (`cmd_in`, `seed_in`). -/
def encode (v : Variant) (i : Instr) (dontCare : BitVec v.width) : Transaction v.width :=
  { cmdIn := i.opcode, seedIn := i.seedPort v dontCare }

/-- A transaction laid out as one number: bits 7..0 are `cmd_in`, and the bits above them are `seed_in`
(notes/assumptions/5.md); only the low `nbits` bits of `bits` count. -/
def transactionOfBits (v : Variant) (nbits bits : Nat) : Transaction v.width :=
  { cmdIn := BitVec.ofNat 8 (bits % 2 ^ nbits), seedIn := BitVec.ofNat v.width (bits % 2 ^ nbits / 2 ^ 8) }

/-- The command the decoder reads from an opcode-table word, whose bits are numbered as spec/opcode_table.json
numbers them. -/
def decodeTableWord (nbits w : Nat) : Option Instr :=
  (decode Config.resetVariant (transactionOfBits Config.resetVariant nbits w)).toOption

end Sys2Proof
end

