-- ==== Sys2Proof/Machine/State.lean ====
section
/-! DEFINITION. The state of the machine as plain data (10_state.md R15, R28, R36), with the reasons it stops and the
state after power-on reset (R33, 70_reset_and_hazards.md R113, R114). The engine has no memory and no program counter
(20_memory.md R37, 10_state.md R30): what the host has still to issue stands in the state as a list. -/

namespace Sys2Proof.Machine

/-- The state array ST[0..3] (R17). -/
structure StateArray (w : Nat) where
  e0 : BitVec w
  e1 : BitVec w
  e2 : BitVec w
  e3 : BitVec w
  deriving DecidableEq, Repr

/-- The registers of an engine of width `w`, which are all of its architectural state (R15). -/
structure Engine (w : Nat) where
  /-- SEED, the seed of the current instance (R16). -/
  seed : BitVec w
  /-- ST, the hidden state array (R17, R25). -/
  st : StateArray w
  /-- MAT1 (R20). -/
  mat1 : BitVec w
  /-- MAT2 (R21). -/
  mat2 : BitVec w
  /-- TMAT (R22). -/
  tmat : BitVec w
  deriving DecidableEq, Repr

/-- What the outside does to the engine, one input at a time (R46, R121, R124). -/
inductive Input (w : Nat) where
  /-- The reset input is asserted, between two commands (R113, R121). -/
  | rst
  /-- A command transaction (R50). -/
  | command (t : Transaction w)
  deriving DecidableEq, Repr

/-- What the engine drives on completing a command (R52). DONE and ILLEGAL carry no value (R52, I7). -/
inductive Response (w : Nat) where
  | done
  | data (value : BitVec w)
  | illegal
  deriving DecidableEq, Repr

/-- The state of the machine. -/
structure State where
  /-- The elaboration parameter W (R3, R36). No step changes it. -/
  variant : Variant
  /-- The engine's registers (R15). -/
  engine : Engine variant.width
  /-- The model-only mark FAULTED (R28, R103). -/
  faulted : Bool
  /-- The model's own: the inputs the host has still to issue, the next one first (R30, R62, R124). -/
  pending : List (Input variant.width)
  /-- The model's own: the responses so far, the oldest first. It is the observation of R124 and no register (R27). -/
  responses : List (Response variant.width)
  deriving DecidableEq, Repr

/-- Why the machine stops with a fault. -/
inductive Fault where
  /-- IllegalCommand, the only exception (R100, R101). Raised by `raiseIllegalCommand` for a command word outside
  R54's table; R103 asks for a fault outcome that names the word. `left` is the state the illegal command leaves: the
  registers unchanged, ILLEGAL driven, FAULTED set. Safe: the hardware goes on from `left` (R107), the model stops. -/
  | illegalCommand (cmdIn : Byte) (left : State)
  deriving DecidableEq, Repr

/-- Why the machine refuses an instruction. -/
inductive Refusal where
  /-- An instruction that has no meaning yet. No arm of `exec` raises it. Safe. -/
  | notModelled (mnemonic : String)
  /-- A seed literal outside 0 ≤ seed ≤ 2^W − 1, raised by `execConstruct` (R59, I6: `refuse`). The port carries
  exactly W bits (R53), so no transaction decodes to such a command. Safe. -/
  | seedOutOfRange (seed : Nat)
  deriving DecidableEq, Repr

/-- The registers after power-on reset, as R33's table lists them. -/
def resetEngine : (v : Variant) → Engine v.width
  | .tinymt32 =>
    { seed := 0x00000001#32
      st := ⟨0x0cca24d8#32, 0x11ba5ad5#32, 0xf2dad045#32, 0xd95dd7b2#32⟩
      mat1 := 0x8f7011ee#32
      mat2 := 0xfc78ff1f#32
      tmat := 0x3793fdff#32 }
  | .tinymt64 =>
    { seed := 0x0000000000000001#64
      st := ⟨0xef3749c1ffd2ccc4#64, 0x72814062c076e9b8#64, 0x0000000000000000#64, 0x0000000000000000#64⟩
      mat1 := 0x00000000fa051f40#64
      mat2 := 0x00000000ffd0fff4#64
      tmat := 0x58d02ffeffbfffbc#64 }

/-- The state of a variant at the start of a run, after power-on reset: R33's registers, FAULTED false, and nothing
issued or observed. -/
def State.resetOf (v : Variant) : State :=
  { variant := v, engine := resetEngine v, faulted := false, pending := [], responses := [] }

/-- The machine right after reset (R33, R114), in the variant `Config.resetVariant` names. -/
def State.reset : State := State.resetOf Config.resetVariant

end Sys2Proof.Machine
end

