-- ==== Sys2Proof/Machine/Flags.lean ====
section
/-! DEFINITION. The engine has no flags (10_state.md R29). The one condition its rules test, the lowest bit of a word,
exists only inside a rule and is never latched; here are that test and the conditional XOR, as a branch (00_scope.md
R14) and in the mask form the source uses (41_state_advance.md R81). -/

namespace Sys2Proof.Machine

/-- `bit0(v)`, the lowest bit of a word (R10). -/
def bit0 {w : Nat} (v : BitVec w) : Bool := v.getLsbD 0

/-- `if c then x ^ k else x`, the conditional XOR (R14). -/
def xorWhen {w : Nat} (c : Bool) (x k : BitVec w) : BitVec w := if c then x ^^^ k else x

/-- The mask of R81: all ones when the bit is 1, all zeros when it is 0. -/
def bitMask {w : Nat} (c : Bool) : BitVec w := 0#w - (BitVec.ofBool c).zeroExtend w

end Sys2Proof.Machine
end

