-- ==== Sys2Proof/Machine/Extraction.lean ====
section
/-! DEFINITION. The tempering and extraction unit (42_extraction.md): Extract32 and Extract64. Neither is a command,
and neither writes a register (R83). -/

namespace Sys2Proof.Machine

/-- Extract32 (R84): the test is on the sum `t`. -/
def extract32 (e : Engine 32) : BitVec 32 :=
  let t := e.st.e0 + (e.st.e2 >>> 8)
  xorWhen (bit0 t) (e.st.e3 ^^^ t) e.tmat

/-- Extract64 (R85): the test is on `out` after the XOR with `ST[0] >> 8`. -/
def extract64 (e : Engine 64) : BitVec 64 :=
  let out := (e.st.e0 + e.st.e1) ^^^ (e.st.e0 >>> 8)
  xorWhen (bit0 out) out e.tmat

/-- Extract_W (43_generate_accessors.md, opening). -/
def extract : (v : Variant) → Engine v.width → BitVec v.width
  | .tinymt32, e => extract32 e
  | .tinymt64, e => extract64 e

end Sys2Proof.Machine
end

