-- ==== Sys2Proof/Machine/Constants.lean ====
section
/-! DEFINITION. The constant table (10_state.md R20 to R22) and the fixed values of the rules (R24). -/

namespace Sys2Proof.Machine

/-- The value seeding writes to MAT1 (R20). -/
def mat1Of : (v : Variant) → BitVec v.width
  | .tinymt32 => 0x8f7011ee#32
  | .tinymt64 => 0x00000000fa051f40#64

/-- The value seeding writes to MAT2 (R21). -/
def mat2Of : (v : Variant) → BitVec v.width
  | .tinymt32 => 0xfc78ff1f#32
  | .tinymt64 => 0x00000000ffd0fff4#64

/-- The value seeding writes to TMAT (R22). -/
def tmatOf : (v : Variant) → BitVec v.width
  | .tinymt32 => 0x3793fdff#32
  | .tinymt64 => 0x58d02ffeffbfffbc#64

/-- FACTOR32, the multiplier of SeedMix32 (R24). -/
def factor32 : BitVec 32 := 1812433253#32

/-- FACTOR64, the multiplier of SeedMix64 (R24). -/
def factor64 : BitVec 64 := 6364136223846793005#64

/-- MASK32 (R24, R78). -/
def mask32 : BitVec 32 := 0x7fffffff#32

/-- MASK64 (R24, R79). -/
def mask64 : BitVec 64 := 0x7fffffffffffffff#64

/-- DEFAULT_SEED (R24, R34, R73). -/
def defaultSeed (w : Nat) : BitVec w := 1#w

/-- The indices of the mixing passes, in order: seven of them, i = 1..7 (R9, 90_conflicts.md C1). -/
def mixingPasses : List Nat := [1, 2, 3, 4, 5, 6, 7]

/-- The number of warm-up advances of TinyMT32 seeding (R9, R65). -/
def warmUpAdvances : Nat := 8

end Sys2Proof.Machine
end

