-- ==== Sys2Proof/Machine/Operands.lean ====
section
/-! DEFINITION. The operand of CONSTRUCT (30_encoding.md R53), the indexing of the state array (00_scope.md R13), and
what a response puts on the two output ports (R52). -/

namespace Sys2Proof.Machine

/-- The seed operand as a W-bit word; a literal outside the word has none (R53, R59). -/
def seedOperand (v : Variant) (seed : Nat) : Option (BitVec v.width) :=
  if seed < 2 ^ v.width then some (BitVec.ofNat v.width seed) else none

/-- ST[i], with the index reduced modulo the array length 4 (R13, R17). -/
def StateArray.get {w : Nat} (st : StateArray w) (i : Nat) : BitVec w :=
  match i % 4 with
  | 0 => st.e0
  | 1 => st.e1
  | 2 => st.e2
  | _ => st.e3

/-- ST[i] <- x, with the index reduced modulo the array length 4 (R13, R17). -/
def StateArray.set {w : Nat} (st : StateArray w) (i : Nat) (x : BitVec w) : StateArray w :=
  match i % 4 with
  | 0 => { st with e0 := x }
  | 1 => { st with e1 := x }
  | 2 => { st with e2 := x }
  | _ => { st with e3 := x }

/-- `rsp_status` of a response (R52, R101). -/
def Response.status {w : Nat} : Response w → StatusCode
  | .done => 0b00#2
  | .data _ => 0b01#2
  | .illegal => 0b10#2

/-- `rsp_data` of a response: a word after DATA, and no value otherwise (R52, 92_eei_decisions.md D15). -/
def Response.value {w : Nat} : Response w → Option (BitVec w)
  | .done => none
  | .data x => some x
  | .illegal => none

end Sys2Proof.Machine
end

