-- ==== Sys2Proof/Machine/Advance.lean ====
section
/-! DEFINITION. The state-advance engine (41_state_advance.md): NextState32 and NextState64. Neither is a command. -/

namespace Sys2Proof.Machine

/-- The recurrence of R78 on the state array, with MAT1 and MAT2 as they stand in their registers. -/
def advance32 (mat1 mat2 : BitVec 32) (st : StateArray 32) : StateArray 32 :=
  let y := st.e3
  let x := (st.e0 &&& mask32) ^^^ st.e1 ^^^ st.e2
  let x := x ^^^ (x <<< 1)
  let y := y ^^^ ((y >>> 1) ^^^ x)
  let moved : StateArray 32 := { e0 := st.e1, e1 := st.e2, e2 := x ^^^ (y <<< 10), e3 := y }
  { moved with e1 := xorWhen (bit0 y) moved.e1 mat1, e2 := xorWhen (bit0 y) moved.e2 mat2 }

/-- The four shift steps that R79 applies to `x`, in their order. -/
def scramble64 (x : BitVec 64) : BitVec 64 :=
  let x := x ^^^ (x <<< 12)
  let x := x ^^^ (x >>> 32)
  let x := x ^^^ (x <<< 32)
  x ^^^ (x <<< 11)

/-- The recurrence of R79 on the state array. ST[2] and ST[3] are neither read nor written (R80); `MAT2 << 32` is a
64-bit shift (92_eei_decisions.md D14). -/
def advance64 (mat1 mat2 : BitVec 64) (st : StateArray 64) : StateArray 64 :=
  let masked := { st with e0 := st.e0 &&& mask64 }
  let x := scramble64 (masked.e0 ^^^ masked.e1)
  let moved := { masked with e0 := masked.e1, e1 := x }
  { moved with e0 := xorWhen (bit0 x) moved.e0 mat1, e1 := xorWhen (bit0 x) moved.e1 (mat2 <<< 32) }

/-- NextState32 (R78): only ST is written (R77). -/
def nextState32 (e : Engine 32) : Engine 32 := { e with st := advance32 e.mat1 e.mat2 e.st }

/-- NextState64 (R79): only ST is written (R77). -/
def nextState64 (e : Engine 64) : Engine 64 := { e with st := advance64 e.mat1 e.mat2 e.st }

/-- NextState_W (43_generate_accessors.md, opening). -/
def nextState : (v : Variant) → Engine v.width → Engine v.width
  | .tinymt32, e => nextState32 e
  | .tinymt64, e => nextState64 e

end Sys2Proof.Machine
end

