-- ==== Sys2Proof/Machine/Initializer.lean ====
section
/-! DEFINITION. The seed-to-state initializer (40_seeding.md sections 1 and 2): SeedMix32, SeedMix64, Seed32 and
Seed64. No step tests for an all-zero state or repairs one (R71). -/

namespace Sys2Proof.Machine

/-- The word a mixing pass XORs into its entry, for TinyMT32: `i + FACTOR32 * (p ^ (p >> 30))` (R64). -/
def mixWord32 (i : Nat) (p : BitVec 32) : BitVec 32 := BitVec.ofNat 32 i + factor32 * (p ^^^ (p >>> 30))

/-- Pass `i` of SeedMix32's loop (R64); indices are modulo 4. -/
def mixPass32 (st : StateArray 32) (i : Nat) : StateArray 32 :=
  st.set (i % 4) (st.get (i % 4) ^^^ mixWord32 i (st.get ((i - 1) % 4)))

/-- Steps 1 and 2 of SeedMix32: the array before the first pass (R63, R64). The seed placeholder of R63 is not
written, since step 2 overwrites it (I2). -/
def loadArray32 (s : BitVec 32) : StateArray 32 :=
  { e0 := s, e1 := mat1Of .tinymt32, e2 := mat2Of .tinymt32, e3 := tmatOf .tinymt32 }

/-- SeedMix32 (R64). -/
def seedMix32 (e : Engine 32) (s : BitVec 32) : Engine 32 :=
  { e with
    mat1 := mat1Of .tinymt32
    mat2 := mat2Of .tinymt32
    tmat := tmatOf .tinymt32
    st := mixingPasses.foldl mixPass32 (loadArray32 s) }

/-- Seed32 (R66): SeedMix32, then the eight warm-up advances of R65. -/
def seed32 (e : Engine 32) (s : BitVec 32) : Engine 32 := nextState32^[warmUpAdvances] (seedMix32 e s)

/-- The word a mixing pass XORs into its entry, for TinyMT64: `i + FACTOR64 * (p ^ (p >> 62))` (R68). -/
def mixWord64 (i : Nat) (p : BitVec 64) : BitVec 64 := BitVec.ofNat 64 i + factor64 * (p ^^^ (p >>> 62))

/-- Pass `i` of SeedMix64's loop (R68); indices are modulo 2. -/
def mixPass64 (st : StateArray 64) (i : Nat) : StateArray 64 :=
  st.set (i % 2) (st.get (i % 2) ^^^ mixWord64 i (st.get ((i - 1) % 2)))

/-- Steps 1 and 2 of SeedMix64: the array before the first pass (R67, R68). `MAT1 << 32` is a 64-bit shift (D14). -/
def loadArray64 (s : BitVec 64) : StateArray 64 :=
  { e0 := s ^^^ (mat1Of .tinymt64 <<< 32)
    e1 := mat2Of .tinymt64 ^^^ tmatOf .tinymt64
    e2 := 0#64
    e3 := 0#64 }

/-- SeedMix64 (R68). -/
def seedMix64 (e : Engine 64) (s : BitVec 64) : Engine 64 :=
  { e with
    mat1 := mat1Of .tinymt64
    mat2 := mat2Of .tinymt64
    tmat := tmatOf .tinymt64
    st := mixingPasses.foldl mixPass64 (loadArray64 s) }

/-- Seed64 (R70): SeedMix64, and no warm-up (R69). -/
def seed64 (e : Engine 64) (s : BitVec 64) : Engine 64 := seedMix64 e s

/-- Seed_W (40_seeding.md section 4). It does not write SEED (R66, R70). -/
def seedW : (v : Variant) → Engine v.width → BitVec v.width → Engine v.width
  | .tinymt32, e, s => seed32 e s
  | .tinymt64, e, s => seed64 e s

end Sys2Proof.Machine
end

