-- ==== Sys2Proof/Machine/Ops.lean ====
section
/-! DEFINITION. The operations the meanings and the step share: completing a command, constructing and reseeding an
instance, raising IllegalCommand, asserting `rst`, and taking the next input. The engine has no memory to access
(20_memory.md R37) and no return from an exception (60_exceptions.md R107). -/

namespace Sys2Proof.Machine

/-- A construction's effect on the registers: SEED <- s; Seed_W(SEED) (R72, R73). -/
def constructEngine (v : Variant) (e : Engine v.width) (s : BitVec v.width) : Engine v.width :=
  seedW v { e with seed := s } s

/-- RESET's effect on the registers: Seed_W(SEED), with SEED read and not written (R74). -/
def rewindEngine (v : Variant) (e : Engine v.width) : Engine v.width := seedW v e e.seed

/-- A command completes: its register results are written and its response is driven, as one indivisible step
(R43, R52). -/
def State.complete (s : State) (e : Engine s.variant.width) (r : Response s.variant.width) : State :=
  { s with engine := e, responses := s.responses ++ [r] }

/-- Taking the one exception, IllegalCommand (R100, R103): no register changes, ILLEGAL is driven, FAULTED is set. It
saves nothing and enters no handler (R106). -/
def raiseIllegalCommand (cmdIn : Byte) (s : State) : Host.Outcome State Fault Refusal :=
  .fault (.illegalCommand cmdIn { s with faulted := true, responses := s.responses ++ [.illegal] })

/-- Asserting `rst` (R113): CONSTRUCT_DEFAULT's effect on the registers, no response, FAULTED kept. -/
def applyRst (s : State) : State :=
  { s with engine := constructEngine s.variant s.engine (defaultSeed s.variant.width) }

/-- What the machine does next. -/
inductive Fetched where
  /-- Nothing is pending (R112). -/
  | idle
  /-- `rst` is asserted; `rest` has it taken off the pending inputs. -/
  | rst (rest : State)
  /-- A command was accepted and decoded. -/
  | command (i : Instr) (rest : State)
  /-- A command word was accepted that is none of R54's. -/
  | illegal (cmdIn : Byte) (rest : State)
  deriving DecidableEq, Repr

/-- Take the next pending input, in the order of issue (R46), and decode it (R50, R57). -/
def fetch (s : State) : Fetched :=
  match s.pending with
  | [] => .idle
  | .rst :: rest => .rst { s with pending := rest }
  | .command t :: rest =>
    match decode s.variant t with
    | .ok i => .command i { s with pending := rest }
    | .error (.illegal c) => .illegal c { s with pending := rest }

/-- The host issues further inputs after those already pending (R62, R124). -/
def State.issue (s : State) (inputs : List (Input s.variant.width)) : State :=
  { s with pending := s.pending ++ inputs }

/-- The host presents one transaction as the very next input. -/
def State.present (s : State) (t : Transaction s.variant.width) : State :=
  { s with pending := .command t :: s.pending }

/-- Elaborating the hardware for a word width and powering it on: any width but 32 and 64 is refused, and no machine
state exists for it (R104, R114). -/
def powerOn (w : Nat) : Option State := (elaborate w).map State.resetOf

end Sys2Proof.Machine
end

