-- ==== Sys2Proof/Machine/Accessors.lean ====
section
/-! DEFINITION. GENERATE, the bounds and the accessor (43_generate_accessors.md): GENERATE, MIN_VALUE, MAX_VALUE and
INITIAL_SEED. -/

namespace Sys2Proof.Machine

/-- GENERATE (R89): one advance, then one extraction from the advanced state. -/
def execGenerate (s : State) : Host.Outcome State Fault Refusal :=
  let e := nextState s.variant s.engine
  .next (s.complete e (.data (extract s.variant e)))

/-- MIN_VALUE (R91). -/
def execMinValue (s : State) : Host.Outcome State Fault Refusal :=
  .next (s.complete s.engine (.data 0#_))

/-- MAX_VALUE (R92): 2^W − 1. -/
def execMaxValue (s : State) : Host.Outcome State Fault Refusal :=
  .next (s.complete s.engine (.data (BitVec.ofNat _ (2 ^ s.variant.width - 1))))

/-- INITIAL_SEED (R93). -/
def execInitialSeed (s : State) : Host.Outcome State Fault Refusal :=
  .next (s.complete s.engine (.data s.engine.seed))

end Sys2Proof.Machine
end

