-- ==== Sys2Proof/Machine/Seeding.lean ====
section
/-! DEFINITION. The seeding commands (40_seeding.md section 4): CONSTRUCT, CONSTRUCT_DEFAULT and RESET. -/

namespace Sys2Proof.Machine

/-- CONSTRUCT (R72). A literal outside the word is refused (R59, I6); no transaction carries one (R53). -/
def execConstruct (seed : Nat) (s : State) : Host.Outcome State Fault Refusal :=
  match seedOperand s.variant seed with
  | some x => .next (s.complete (constructEngine s.variant s.engine x) .done)
  | none => .refused (.seedOutOfRange seed)

/-- CONSTRUCT_DEFAULT (R73). -/
def execConstructDefault (s : State) : Host.Outcome State Fault Refusal :=
  .next (s.complete (constructEngine s.variant s.engine (defaultSeed s.variant.width)) .done)

/-- RESET (R74). -/
def execReset (s : State) : Host.Outcome State Fault Refusal :=
  .next (s.complete (rewindEngine s.variant s.engine) .done)

end Sys2Proof.Machine
end

