-- ==== Sys2Proof/Machine/Dispatch.lean ====
section
/-! DEFINITION. The meaning of every command, one arm each (30_encoding.md R54). -/

namespace Sys2Proof.Machine

/-- Perform one command (R54). -/
def exec (i : Instr) (s : State) : Host.Outcome State Fault Refusal :=
  match i with
  | .construct seed => Sys2Proof.Machine.execConstruct seed s
  | .constructDefault => Sys2Proof.Machine.execConstructDefault s
  | .reset => Sys2Proof.Machine.execReset s
  | .generate => Sys2Proof.Machine.execGenerate s
  | .minValue => Sys2Proof.Machine.execMinValue s
  | .maxValue => Sys2Proof.Machine.execMaxValue s
  | .initialSeed => Sys2Proof.Machine.execInitialSeed s

end Sys2Proof.Machine
end

