-- ==== Sys2Proof/Machine/Step.lean ====
section
/-! DEFINITION. One step: one input of the run, performed to completion (20_memory.md R43, R46; 70_reset_and_hazards.md
R121, R122). -/

namespace Sys2Proof.Machine

/-- One step. With nothing pending the engine holds its registers (R112). -/
def step (s : State) : Host.Outcome State Fault Refusal :=
  match fetch s with
  | .idle => .next s
  | .rst rest => .next (applyRst rest)
  | .command i rest => exec i rest
  | .illegal c rest => raiseIllegalCommand c rest

/-- The transaction with these bits becomes the very next input (notes/assumptions/5.md). -/
def State.withFetchWord (s : State) (nbits w : Nat) : State :=
  s.present (transactionOfBits s.variant nbits w)

end Sys2Proof.Machine
end

