-- ==== Sys2Proof/Machine/Assembler.lean ====
section
/-! DEFINITION. The assembler syntax (30_encoding.md R58 to R61) over lists of characters, and a program's encoding as
its list of transactions (R62). Text is plain ASCII: the blank is the space, and a line ends at a line feed
(notes/assumptions/8.md). -/

namespace Sys2Proof

/-- Why a line is refused (R58, R59). -/
inductive AsmError where
  /-- The first word is no mnemonic in upper case (R58). -/
  | unknownMnemonic
  /-- CONSTRUCT without its operand (R59, R60). -/
  | missingOperand
  /-- An operand on another mnemonic, or a second one on CONSTRUCT (R58, R59). -/
  | unexpectedOperand
  /-- The operand is no decimal or hexadecimal literal (R59). -/
  | badLiteral
  /-- A literal with a minus sign (R59). -/
  | negativeLiteral
  /-- The value is not in 0 ≤ seed ≤ 2^W − 1 (R59). -/
  | literalOutOfRange
  deriving DecidableEq, Repr

/-- The spelling of a mnemonic (R58). -/
def Mnemonic.text : Mnemonic → List Char
  | .construct => ['C', 'O', 'N', 'S', 'T', 'R', 'U', 'C', 'T']
  | .constructDefault => ['C', 'O', 'N', 'S', 'T', 'R', 'U', 'C', 'T', '_', 'D', 'E', 'F', 'A', 'U', 'L', 'T']
  | .reset => ['R', 'E', 'S', 'E', 'T']
  | .generate => ['G', 'E', 'N', 'E', 'R', 'A', 'T', 'E']
  | .minValue => ['M', 'I', 'N', '_', 'V', 'A', 'L', 'U', 'E']
  | .maxValue => ['M', 'A', 'X', '_', 'V', 'A', 'L', 'U', 'E']
  | .initialSeed => ['I', 'N', 'I', 'T', 'I', 'A', 'L', '_', 'S', 'E', 'E', 'D']

/-- Every mnemonic of R54. -/
def allMnemonics : List Mnemonic :=
  [.construct, .constructDefault, .reset, .generate, .minValue, .maxValue, .initialSeed]

/-- The mnemonic a word spells, if any (R58). -/
def readMnemonic (word : List Char) : Option Mnemonic := allMnemonics.find? fun m => m.text == word

/-- The value of a digit in base 10 or 16; both cases of a hexadecimal letter are digits (R59,
notes/assumptions/8.md). -/
def digitValue (base : Nat) (c : Char) : Option Nat :=
  let n := c.toNat
  let d := if 48 ≤ n ∧ n ≤ 57 then n - 48 else if 97 ≤ n ∧ n ≤ 102 then n - 87
    else if 65 ≤ n ∧ n ≤ 70 then n - 55 else base
  if d < base then some d else none

/-- Digits with underscores between them (R59). `acc` is the value so far, none before the first digit;
`afterDigit` says whether the character just read was a digit, since a literal neither begins nor ends with an
underscore. -/
def readDigits (base : Nat) (acc : Option Nat) (afterDigit : Bool) : List Char → Option Nat
  | [] => if afterDigit then acc else none
  | c :: cs =>
    if c = '_' then
      match acc with
      | none => none
      | some a => readDigits base (some a) false cs
    else
      match digitValue base c with
      | none => none
      | some d => readDigits base (some (acc.getD 0 * base + d)) true cs

/-- An unsigned integer literal, decimal or with the prefix `0x` (R59). -/
def readLiteral (word : List Char) : Except AsmError Nat :=
  match word with
  | '-' :: _ => .error .negativeLiteral
  | '0' :: 'x' :: digits =>
    match readDigits 16 none false digits with
    | some n => .ok n
    | none => .error .badLiteral
  | digits =>
    match readDigits 10 none false digits with
    | some n => .ok n
    | none => .error .badLiteral

/-- The text before a `;` (R61). -/
def dropComment (line : List Char) : List Char := line.takeWhile fun c => c != ';'

/-- The pieces of a list between occurrences of `sep`; never empty. -/
def pieces (sep : Char) : List Char → List (List Char)
  | [] => [[]]
  | c :: cs =>
    if c = sep then [] :: pieces sep cs
    else
      match pieces sep cs with
      | [] => [[c]]
      | p :: ps => (c :: p) :: ps

/-- The words of a line: the pieces between blanks, empty ones left out (R58: one or more spaces). -/
def wordsOf (line : List Char) : List (List Char) := (pieces ' ' line).filter fun p => !p.isEmpty

/-- A command that takes no operand, with the operands as written (R58, R59). -/
def withoutOperand (i : Instr) : List (List Char) → Except AsmError Instr
  | [] => .ok i
  | _ :: _ => .error .unexpectedOperand

/-- CONSTRUCT with the operands as written: exactly one, a literal inside the word, never truncated (R59, R60). -/
def constructWith (v : Variant) : List (List Char) → Except AsmError Instr
  | [] => .error .missingOperand
  | [word] =>
    match readLiteral word with
    | .error e => .error e
    | .ok seed => if seed < 2 ^ v.width then .ok (.construct seed) else .error .literalOutOfRange
  | _ :: _ :: _ => .error .unexpectedOperand

/-- The command of a mnemonic with its operands as written (R58 to R60). -/
def assembleWords (v : Variant) (m : Mnemonic) (operands : List (List Char)) : Except AsmError Instr :=
  match m with
  | .construct => constructWith v operands
  | .constructDefault => withoutOperand .constructDefault operands
  | .reset => withoutOperand .reset operands
  | .generate => withoutOperand .generate operands
  | .minValue => withoutOperand .minValue operands
  | .maxValue => withoutOperand .maxValue operands
  | .initialSeed => withoutOperand .initialSeed operands

/-- One line of program text: at most one command; a blank line has none (R58 to R61). -/
def assembleLine (v : Variant) (line : List Char) : Except AsmError (Option Instr) :=
  match wordsOf (dropComment line) with
  | [] => .ok none
  | word :: operands =>
    match readMnemonic word with
    | none => .error .unknownMnemonic
    | some m =>
      match assembleWords v m operands with
      | .ok i => .ok (some i)
      | .error e => .error e

/-- The commands of the lines, in order; the first line refused refuses the program (R59, R61). -/
def assembleLines (v : Variant) : List (List Char) → Except AsmError (List Instr)
  | [] => .ok []
  | line :: rest =>
    match assembleLine v line with
    | .error e => .error e
    | .ok none => assembleLines v rest
    | .ok (some i) =>
      match assembleLines v rest with
      | .error e => .error e
      | .ok is => .ok (i :: is)

/-- A program text: one command a line (R61). -/
def assemble (v : Variant) (text : List Char) : Except AsmError (List Instr) := assembleLines v (pieces '\n' text)

/-- Lines as one text, a line feed between two of them (R61). -/
def joinLines : List (List Char) → List Char
  | [] => []
  | [line] => line
  | line :: next :: rest => line ++ '\n' :: joinLines (next :: rest)

/-- A program's encoding: its transactions in order, with `dontCare` where R62 writes a dash. -/
def encodeProgram (v : Variant) (dontCare : BitVec v.width) (is : List Instr) : List (Machine.Input v.width) :=
  is.map fun i => .command (encode v i dontCare)

/-- The character of a hexadecimal digit. -/
def hexDigit (d : Nat) : Char := if d < 10 then Char.ofNat (48 + d) else Char.ofNat (87 + d)

/-- The low `k` hexadecimal digits of a number, the most significant first. -/
def hexDigits : Nat → Nat → List Char
  | 0, _ => []
  | k + 1, n => hexDigits k (n / 16) ++ [hexDigit (n % 16)]

/-- The text of a command (R58): its mnemonic, and for CONSTRUCT a space and the seed in hexadecimal, W/4 digits. -/
def Instr.text (v : Variant) : Instr → List Char
  | .construct seed => Mnemonic.construct.text ++ [' ', '0', 'x'] ++ hexDigits (v.width / 4) seed
  | .constructDefault => Mnemonic.constructDefault.text
  | .reset => Mnemonic.reset.text
  | .generate => Mnemonic.generate.text
  | .minValue => Mnemonic.minValue.text
  | .maxValue => Mnemonic.maxValue.text
  | .initialSeed => Mnemonic.initialSeed.text

end Sys2Proof
end

