-- ==== Sys2Proof/Machine/Hardware.lean ====
section
/-! DEFINITION. What the hardware does where the model stops: after responding ILLEGAL it accepts the next command
normally (60_exceptions.md R107), from the state R100 leaves. Running this way shows the rows of 95_test_vectors.md P3
that follow an illegal command; FAULTED then stays set (R103). -/

namespace Sys2Proof.Machine

/-- The state the hardware goes on from after an outcome of the model's step (R100, R107). A refusal leaves the state
as it was; no step of this machine refuses. -/
def goOnFrom (s : State) : Host.Outcome State Fault Refusal → State
  | .next t => t
  | .fault (.illegalCommand _ left) => left
  | .refused _ => s

/-- One step of the hardware (R107). -/
def hardwareStep (s : State) : State := goOnFrom s (step s)

/-- `n` steps of the hardware. -/
def hardwareRun (n : Nat) (s : State) : State := hardwareStep^[n] s

/-- A run of the hardware: every pending input performed, in order (R62, R124). -/
def runToEnd (s : State) : State := hardwareRun s.pending.length s

end Sys2Proof.Machine
end

