-- ==== Sys2Proof/Machine/System.lean ====
section
/-! DEFINITION. Several engines, and several issuers on one engine. Engines share no state, so a system is the product
of independent engines (20_memory.md R47, 60_exceptions.md R110). The order in which two issuers reach one engine is
left free (70_reset_and_hazards.md R120). -/

namespace Sys2Proof.Machine

/-- Several engines (R110). They have no identifier but their place in the list. -/
structure System where
  engines : List State
  deriving DecidableEq, Repr

/-- Engine `k` performs its next input; a number that is no engine's does nothing (R47). -/
def System.stepAt (k : Nat) (m : System) : System := { engines := m.engines.modify k hardwareStep }

/-- One schedule of two issuers: `zs` takes the inputs of `xs` and of `ys`, each issuer's in its own order (R120). -/
inductive Interleaving {α : Type} : List α → List α → List α → Prop where
  | nil : Interleaving [] [] []
  | left (x : α) {xs ys zs : List α} : Interleaving xs ys zs → Interleaving (x :: xs) ys (x :: zs)
  | right (y : α) {xs ys zs : List α} : Interleaving xs ys zs → Interleaving xs (y :: ys) (y :: zs)

end Sys2Proof.Machine
end

