-- ==== Sys2Proof/Safety.lean ====
section
/-! DEFINITION. The terms claims are stated in: what holds of every reachable state of the engine, which inputs are
legal, and what a safe run is. -/

namespace Sys2Proof.Machine

/-- The constant registers hold the table values of their variant (R20 to R23). -/
def Engine.TableConstants (v : Variant) (e : Engine v.width) : Prop :=
  e.mat1 = mat1Of v ∧ e.mat2 = mat2Of v ∧ e.tmat = tmatOf v

/-- In TinyMT64, ST[2] and ST[3] are zero (R19); TinyMT32 has no spare entry (R18). -/
def Engine.SpareZero : (v : Variant) → Engine v.width → Prop
  | .tinymt32, _ => True
  | .tinymt64, e => e.st.e2 = 0 ∧ e.st.e3 = 0

/-- The degenerate state: every live bit of ST that the recurrence reads is zero (I12). -/
def Engine.Degenerate : (v : Variant) → Engine v.width → Prop
  | .tinymt32, e => e.st.e0 &&& mask32 = 0 ∧ e.st.e1 = 0 ∧ e.st.e2 = 0 ∧ e.st.e3 = 0
  | .tinymt64, e => e.st.e0 &&& mask64 = 0 ∧ e.st.e1 = 0

/-- What holds of the registers in every reachable state: the constant table, the zero spare entries, and a state
array that is not degenerate. -/
structure State.Inv (s : State) : Prop where
  constants : s.engine.TableConstants
  spare : s.engine.SpareZero
  live : ¬ s.engine.Degenerate

/-- A command word of R54's table. -/
abbrev Byte.Legal (c : Byte) : Prop := 1 ≤ c.toNat ∧ c.toNat ≤ 7

/-- An input that raises no exception: `rst`, or a command word of R54's table (R100, R102). -/
def Input.Legal {w : Nat} : Input w → Prop
  | .rst => True
  | .command t => Byte.Legal t.cmdIn

/-- A command: an input that is answered, where `rst` is not (R113). -/
def Input.isCommand {w : Nat} : Input w → Bool
  | .rst => false
  | .command _ => true

/-- The input constructs an instance with seed `x` (R16): CONSTRUCT with `x` on `seed_in` (R72), or CONSTRUCT_DEFAULT
(R73) or `rst` (R113) with `x` = 1. -/
def ConstructsWith {w : Nat} (x : BitVec w) : Input w → Prop
  | .rst => x = 1#w
  | .command t => (t.cmdIn = 0x01#8 ∧ t.seedIn = x) ∨ (t.cmdIn = 0x02#8 ∧ x = 1#w)

/-- What a construction is answered: DONE to a command, nothing to `rst` (R116). -/
def constructionAnswer {w : Nat} : Input w → List (Response w)
  | .rst => []
  | .command _ => [.done]

/-- The transaction constructs no instance. -/
abbrev ConstructsNothing {w : Nat} (t : Transaction w) : Prop := t.cmdIn ≠ 0x01#8 ∧ t.cmdIn ≠ 0x02#8

/-- The transaction reseeds nothing: it constructs no instance and is no RESET (R116). -/
abbrev ReseedsNothing {w : Nat} (t : Transaction w) : Prop := ConstructsNothing t ∧ t.cmdIn ≠ 0x03#8

/-- A safe state: no fault is recorded (R103). -/
abbrev State.Safe (s : State) : Prop := s.faulted = false

/-- A safe run of `n` steps: the model neither faults nor refuses, and no fault is recorded at its end (R103, R124). -/
def SafeRun (n : Nat) (s : State) : Prop := ∃ t, Sys2Proof.core.run n s = .next t ∧ State.Safe t

end Sys2Proof.Machine
end

