-- ==== Sys2Proof/Certificates/Slice0/Obligations.lean ====
section
/-! DEFINITION. The statements for the provers, file by file of spec/. A statement about what the hardware does after an
illegal command speaks of `hardwareStep` (60_exceptions.md R107); one about the model's own outcomes speaks of `step`. -/

open Sys2Proof Sys2Proof.Machine

/-! ### 30_encoding.md and 60_exceptions.md: words, responses, elaboration -/

/-- R54's map, with R53's operand: what each of the seven command words decodes to. -/
def Obligations.EachCommandWordDecodesToItsCommand : Prop :=
  ∀ (v : Variant) (x : BitVec v.width),
    decode v ⟨0b00000001#8, x⟩ = .ok (.construct x.toNat) ∧
    decode v ⟨0b00000010#8, x⟩ = .ok .constructDefault ∧
    decode v ⟨0b00000011#8, x⟩ = .ok .reset ∧
    decode v ⟨0b00000100#8, x⟩ = .ok .generate ∧
    decode v ⟨0b00000101#8, x⟩ = .ok .minValue ∧
    decode v ⟨0b00000110#8, x⟩ = .ok .maxValue ∧
    decode v ⟨0b00000111#8, x⟩ = .ok .initialSeed

/-- Encoding a well-formed command, with anything on `seed_in` where it is not sampled, and decoding it gives it back. -/
def Obligations.DecodeOfEncodeIsTheCommand : Prop :=
  ∀ (v : Variant) (i : Instr) (dontCare : BitVec v.width),
    i.wellFormed v = true → decode v (encode v i dontCare) = .ok i

/-- A transaction that decodes is the encoding of what it decodes to, which is well formed. -/
def Obligations.EncodeOfDecodeIsTheTransaction : Prop :=
  ∀ (v : Variant) (t : Transaction v.width) (i : Instr),
    decode v t = .ok i → i.wellFormed v = true ∧ encode v i t.seedIn = t

/-- R57: each word selects one mnemonic or is illegal, and no two rows of R54 match one word. -/
def Obligations.NoTwoRowsMatchOneWord : Prop :=
  (∀ (v : Variant) (t : Transaction v.width),
    (∃ m : Mnemonic, selectMnemonic t.cmdIn = some m ∧ (∀ m', selectMnemonic t.cmdIn = some m' → m' = m) ∧
      decode v t = .ok (m.instr t.seedIn.toNat)) ∨
    decode v t = .error (.illegal t.cmdIn)) ∧
  (∀ c : Byte, ∀ r₁ ∈ opcodeMap, ∀ r₂ ∈ opcodeMap, r₁.matchesWord c = true → r₂.matchesWord c = true → r₁ = r₂)

/-- R55: the illegal words are those outside 0x01..0x07, 249 of them; each is rejected, leaves every register as it
was and is answered ILLEGAL. -/
def Obligations.EveryOtherWordIsIllegal : Prop :=
  ((List.range 256).filter fun n => !decide (Byte.Legal (BitVec.ofNat 8 n))).length = 249 ∧
  (∀ (v : Variant) (t : Transaction v.width),
    (∃ c, decode v t = .error (.illegal c)) ↔ ¬ (0x01 ≤ t.cmdIn.toNat ∧ t.cmdIn.toNat ≤ 0x07)) ∧
  (∀ (s : State) (t : Transaction s.variant.width) (rest : List (Input s.variant.width)),
    s.pending = .command t :: rest → ¬ (0x01 ≤ t.cmdIn.toNat ∧ t.cmdIn.toNat ≤ 0x07) →
      ∃ f, hardwareStep s =
        { s with pending := rest, faulted := f, responses := s.responses ++ [.illegal] })

/-- R52: the codes, what carries a value, and that 0b11 is never driven. -/
def Obligations.ResponseCodes : Prop :=
  ∀ (w : Nat) (x : BitVec w),
    ((Response.done : Response w).status = 0b00#2 ∧ (Response.done : Response w).value = none) ∧
    ((Response.data x).status = 0b01#2 ∧ (Response.data x).value = some x) ∧
    ((Response.illegal : Response w).status = 0b10#2 ∧ (Response.illegal : Response w).value = none) ∧
    (∀ r : Response w, r.status ≠ 0b11#2)

/-- On every command but CONSTRUCT the value on `seed_in` has no effect on anything the step does. -/
def Obligations.SeedPortIgnoredByOtherCommands : Prop :=
  ∀ (v : Variant) (e : Engine v.width) (f : Bool) (c : Byte) (x y : BitVec v.width) (rest : List (Input v.width))
    (r : List (Response v.width)),
    c ≠ 0x01#8 →
      step { variant := v, engine := e, faulted := f, pending := .command ⟨c, x⟩ :: rest, responses := r } =
        step { variant := v, engine := e, faulted := f, pending := .command ⟨c, y⟩ :: rest, responses := r }

/-- R104: only the widths 32 and 64 power on, each as the engine of that width. -/
def Obligations.OnlyTwoWidthsElaborate : Prop :=
  ∀ w : Nat,
    ((w = 32 ∨ w = 64) → ∃ s, powerOn w = some s ∧ s.variant.width = w) ∧
    (¬ (w = 32 ∨ w = 64) → powerOn w = none ∧ wellFormedWidth w = false)

/-! ### 30_encoding.md: the assembler -/

/-- What a line or a whole program assembles to is well formed, and what R59 refuses is refused by name: a missing
operand on CONSTRUCT, an operand on any other mnemonic, a larger literal in either base, and a negative literal. A
decimal literal inside the word is taken as it is, and an underscore between two digits is ignored. -/
def Obligations.AssembledCommandsAreWellFormed : Prop :=
  ∀ v : Variant,
    (∀ (line : List Char) (i : Instr), assembleLine v line = .ok (some i) → i.wellFormed v = true) ∧
    (∀ (text : List Char) (is : List Instr), assemble v text = .ok is → ∀ i ∈ is, i.wellFormed v = true) ∧
    (assembleLine v Mnemonic.construct.text = .error .missingOperand ∧
      ∀ tail : List Char, (∀ c ∈ dropComment tail, c = ' ') →
        assembleLine v (Mnemonic.construct.text ++ ' ' :: tail) = .error .missingOperand) ∧
    (∀ (m : Mnemonic) (tail : List Char), m ≠ .construct → (∃ c ∈ dropComment tail, c ≠ ' ') →
      assembleLine v (m.text ++ ' ' :: tail) = .error .unexpectedOperand) ∧
    (∀ k n : Nat, 2 ^ v.width ≤ n → n < 16 ^ k →
      assembleLine v (Mnemonic.construct.text ++ ' ' :: '0' :: 'x' :: hexDigits k n) = .error .literalOutOfRange) ∧
    (∀ n : Nat, assembleLine v (Mnemonic.construct.text ++ ' ' :: Nat.toDigits 10 n) =
      if n < 2 ^ v.width then .ok (some (.construct n)) else .error .literalOutOfRange) ∧
    (∀ word : List Char, ' ' ∉ word → ';' ∉ word →
      assembleLine v (Mnemonic.construct.text ++ ' ' :: '-' :: word) = .error .negativeLiteral) ∧
    (∀ (before after : List Char) (c d : Char), digitValue 16 c ≠ none → digitValue 16 d ≠ none →
      readLiteral (before ++ c :: '_' :: d :: after) = readLiteral (before ++ c :: d :: after))

/-- From text to text, for one command and for a whole program: a well-formed command's own text assembles to it and its
transaction decodes to it; the texts of a program's commands, one a line, assemble to the program, whose encoding (R62)
is one transaction for each command, in order, that decodes to it. -/
def Obligations.AssembleOfTextIsTheCommand : Prop :=
  ∀ (v : Variant) (dontCare : BitVec v.width),
    (∀ i : Instr, i.wellFormed v = true →
      assembleLine v (i.text v) = .ok (some i) ∧ decode v (encode v i dontCare) = .ok i) ∧
    (∀ is : List Instr, (∀ i ∈ is, i.wellFormed v = true) →
      assemble v (joinLines (is.map (Instr.text v))) = .ok is ∧
      List.Forall₂ (fun input i => ∃ t, input = .command t ∧ decode v t = .ok i) (encodeProgram v dontCare is) is)

/-- Whatever follows a `;` on a line does not matter. -/
def Obligations.CommentsAreIgnored : Prop :=
  ∀ (v : Variant) (line comment : List Char), assembleLine v (line ++ ';' :: comment) = assembleLine v line

/-- R61: a blank line has no command; lines that are read assemble to their commands, in order; one refused line
refuses the program. -/
def Obligations.ProgramIsReadLineByLine : Prop :=
  ∀ v : Variant,
    (∀ blank : List Char, (∀ c ∈ blank, c = ' ') → assembleLine v blank = .ok none) ∧
    (∀ lines : List (List Char), (∀ line ∈ lines, '\n' ∉ line) →
      (∀ commands : List (Option Instr),
        List.Forall₂ (fun line command => assembleLine v line = .ok command) lines commands →
          assemble v (joinLines lines) = .ok (commands.filterMap id)) ∧
      (∀ line ∈ lines, ∀ refusal, assembleLine v line = .error refusal →
        ∃ first, assemble v (joinLines lines) = .error first))

/-! ### 10_state.md and 70_reset_and_hazards.md: reset and the invariants -/

/-- R33: the values after power-on reset, which are those CONSTRUCT_DEFAULT produces in any state; FAULTED is false at
the start of a run and a later `rst` keeps it. -/
def Obligations.ResetValues : Prop :=
  (State.resetOf .tinymt32).engine =
    { seed := 0x00000001#32, st := ⟨0x0cca24d8#32, 0x11ba5ad5#32, 0xf2dad045#32, 0xd95dd7b2#32⟩,
      mat1 := 0x8f7011ee#32, mat2 := 0xfc78ff1f#32, tmat := 0x3793fdff#32 } ∧
  (State.resetOf .tinymt64).engine =
    { seed := 0x0000000000000001#64, st := ⟨0xef3749c1ffd2ccc4#64, 0x72814062c076e9b8#64, 0#64, 0#64⟩,
      mat1 := 0x00000000fa051f40#64, mat2 := 0x00000000ffd0fff4#64, tmat := 0x58d02ffeffbfffbc#64 } ∧
  (∀ v, (State.resetOf v).faulted = false) ∧
  (∀ s : State, exec .constructDefault s =
    .next { s with engine := (State.resetOf s.variant).engine, responses := s.responses ++ [.done] }) ∧
  (∀ (s : State) (rest : List (Input s.variant.width)), s.pending = .rst :: rest →
    step s = .next { s with engine := (State.resetOf s.variant).engine, pending := rest })

/-- R113: `rst` writes SEED and then seeds, answers nothing and keeps FAULTED. -/
def Obligations.RstConstructsSeedOne : Prop :=
  ∀ (s : State) (rest : List (Input s.variant.width)), s.pending = .rst :: rest →
    step s = .next { s with
      engine := seedW s.variant { s.engine with seed := 1#s.variant.width } 1#s.variant.width
      pending := rest }

/-- R115: after `rst`, whatever came before it, any command is accepted, and the first GENERATE returns the first seed-1
word, whatever commands that construct nothing (RESET, accessors and illegal words) stand between. -/
def Obligations.FirstWordAfterRst : Prop :=
  ∀ (v : Variant) (e : Engine v.width) (f : Bool) (r : List (Response v.width)) (rest : List (Input v.width)),
    (∀ (ts : List (Transaction v.width)) (y : BitVec v.width),
      (∀ t ∈ ts, ConstructsNothing t ∧ t.cmdIn ≠ 0x04#8) →
        let s : State :=
          { variant := v, engine := e, faulted := f, responses := r,
            pending := .rst :: (ts.map .command ++ .command ⟨0x04#8, y⟩ :: rest) }
        ∃ (f' : Bool) (new : List (Response v.width)) (x : BitVec v.width),
          hardwareRun (ts.length + 2) s =
            { variant := v, engine := nextState v (State.resetOf v).engine, faulted := f', pending := rest,
              responses := r ++ new ++ [.data x] } ∧
          new.length = ts.length ∧
          (v = .tinymt32 → x.toNat = 2545341989) ∧ (v = .tinymt64 → x.toNat = 15503804787016557143)) ∧
    (∀ t : Transaction v.width, Byte.Legal t.cmdIn →
      ∃ t', Sys2Proof.core.run 2
        { variant := v, engine := e, faulted := f, pending := .rst :: .command t :: rest, responses := r } = .next t')

/-- R116: what the four events that reseed leave, and what they answer. -/
def Obligations.WaysToReseed : Prop :=
  ∀ s : State,
    (∀ rest, s.pending = .rst :: rest →
      step s = .next { s with
        engine := { seedW s.variant s.engine 1#s.variant.width with seed := 1#s.variant.width }, pending := rest }) ∧
    (∀ x : BitVec s.variant.width, exec (.construct x.toNat) s =
      .next { s with engine := { seedW s.variant s.engine x with seed := x }, responses := s.responses ++ [.done] }) ∧
    (exec .constructDefault s =
      .next { s with
        engine := { seedW s.variant s.engine 1#s.variant.width with seed := 1#s.variant.width }
        responses := s.responses ++ [.done] }) ∧
    (exec .reset s =
      .next { s with
        engine := { seedW s.variant s.engine s.engine.seed with seed := s.engine.seed }
        responses := s.responses ++ [.done] })

/-- The reset states satisfy the invariant. -/
def Obligations.InvariantHoldsAtReset : Prop :=
  State.Inv State.reset ∧ ∀ v, (State.resetOf v).Inv

/-- The constants stay the table's, TinyMT64's spare entries stay zero, and ST never becomes degenerate: every step
from a state of the invariant leads to one, the state an illegal command leaves among them. -/
def Obligations.EveryStepKeepsTheInvariant : Prop :=
  ∀ s : State, s.Inv →
    (∀ t, step s = .next t → t.Inv) ∧
    (∀ c left, step s = .fault (.illegalCommand c left) → left.Inv)

/-- R16: only CONSTRUCT, CONSTRUCT_DEFAULT and `rst` change SEED. -/
def Obligations.SeedWrittenOnlyByConstruction : Prop :=
  ∀ s : State, (hardwareStep s).engine.seed.toNat ≠ s.engine.seed.toNat →
    ∃ input rest, s.pending = input :: rest ∧
      (input = .rst ∨ ∃ t, input = .command t ∧ (t.cmdIn = 0x01#8 ∨ t.cmdIn = 0x02#8))

/-- No run changes the variant. -/
def Obligations.VariantNeverChanges : Prop :=
  ∀ (n : Nat) (s : State), (hardwareRun n s).variant = s.variant

/-- R35: from equal registers, equal inputs get equal responses and leave equal registers, whatever was recorded
before. -/
def Obligations.RegistersDetermineResponses : Prop :=
  ∀ (v : Variant) (n : Nat) (e : Engine v.width) (p : List (Input v.width)) (f f' : Bool)
    (r r' : List (Response v.width)),
    ∃ e₁ p₁ f₁ f₁' new,
      hardwareRun n { variant := v, engine := e, faulted := f, pending := p, responses := r } =
        { variant := v, engine := e₁, faulted := f₁, pending := p₁, responses := r ++ new } ∧
      hardwareRun n { variant := v, engine := e, faulted := f', pending := p, responses := r' } =
        { variant := v, engine := e₁, faulted := f₁', pending := p₁, responses := r' ++ new }

/-! ### 40_seeding.md -/

/-- R64, R65 and R66: SeedMix32 is its seven passes, written out in order; Seed32 is SeedMix32 and then exactly eight
advances. -/
def Obligations.Seed32IsSevenPassesAndEightAdvances : Prop :=
  ∀ (e : Engine 32) (s : BitVec 32),
    let mix (i : BitVec 32) (p : BitVec 32) : BitVec 32 := i + 1812433253#32 * (p ^^^ (p >>> 30))
    let a1 := 0x8f7011ee#32 ^^^ mix 1 s
    let a2 := 0xfc78ff1f#32 ^^^ mix 2 a1
    let a3 := 0x3793fdff#32 ^^^ mix 3 a2
    let b0 := s ^^^ mix 4 a3
    let b1 := a1 ^^^ mix 5 b0
    let b2 := a2 ^^^ mix 6 b1
    let b3 := a3 ^^^ mix 7 b2
    let mixed : Engine 32 :=
      { seed := e.seed, st := ⟨b0, b1, b2, b3⟩, mat1 := 0x8f7011ee#32, mat2 := 0xfc78ff1f#32, tmat := 0x3793fdff#32 }
    seedMix32 e s = mixed ∧
    seedW .tinymt32 e s =
      nextState32 (nextState32 (nextState32 (nextState32 (nextState32 (nextState32 (nextState32 (nextState32
        mixed)))))))

/-- R68, R69 and R70: Seed64 is SeedMix64, its seven passes written out in order, with no advance after them. -/
def Obligations.Seed64IsMixingAlone : Prop :=
  ∀ (e : Engine 64) (s : BitVec 64),
    let mix (i : BitVec 64) (p : BitVec 64) : BitVec 64 := i + 6364136223846793005#64 * (p ^^^ (p >>> 62))
    let a0 := s ^^^ 0xfa051f4000000000#64
    let b1 := 0x58d02ffe006f0048#64 ^^^ mix 1 a0
    let c0 := a0 ^^^ mix 2 b1
    let c1 := b1 ^^^ mix 3 c0
    let d0 := c0 ^^^ mix 4 c1
    let d1 := c1 ^^^ mix 5 d0
    let f0 := d0 ^^^ mix 6 d1
    let f1 := d1 ^^^ mix 7 f0
    seedW .tinymt64 e s =
      { seed := e.seed, st := ⟨f0, f1, 0#64, 0#64⟩, mat1 := 0x00000000fa051f40#64, mat2 := 0x00000000ffd0fff4#64,
        tmat := 0x58d02ffeffbfffbc#64 }

/-- R76: the state seeding leaves depends on W and the seed alone. -/
def Obligations.SeedingForgetsTheState : Prop :=
  ∀ (v : Variant) (e e' : Engine v.width) (s : BitVec v.width),
    (seedW v e s).st = (seedW v e' s).st ∧ (seedW v e s).mat1 = (seedW v e' s).mat1 ∧
    (seedW v e s).mat2 = (seedW v e' s).mat2 ∧ (seedW v e s).tmat = (seedW v e' s).tmat

/-- R72: CONSTRUCT completes for every seed of the word in every state, and nothing of the previous instance
survives; issuing it twice is issuing it once. -/
def Obligations.ConstructSeedsANewInstance : Prop :=
  ∀ (s : State) (seed : Nat), seed < 2 ^ s.variant.width →
    let x := BitVec.ofNat s.variant.width seed
    ∃ e : Engine s.variant.width,
      exec (.construct seed) s = .next { s with engine := e, responses := s.responses ++ [.done] } ∧
      e.seed = x ∧ e.seed.toNat = seed ∧ e = seedW s.variant { s.engine with seed := x } x ∧
      e.TableConstants ∧
      (∀ before : Engine s.variant.width,
        exec (.construct seed) { s with engine := before } =
          .next { s with engine := e, responses := s.responses ++ [.done] }) ∧
      decode s.variant ⟨0x01#8, x⟩ = .ok (.construct seed)

/-- A seed literal outside the word is refused by name. -/
def Obligations.ConstructRefusesALargerLiteral : Prop :=
  ∀ (s : State) (seed : Nat), ¬ seed < 2 ^ s.variant.width →
    exec (.construct seed) s = .refused (.seedOutOfRange seed) ∧ (Instr.construct seed).wellFormed s.variant = false

/-- R73: CONSTRUCT_DEFAULT is CONSTRUCT with seed 1, and completes. -/
def Obligations.ConstructDefaultIsConstructOne : Prop :=
  ∀ s : State,
    exec .constructDefault s = exec (.construct 1) s ∧
    exec .constructDefault s =
      .next { s with
        engine := seedW s.variant { s.engine with seed := 1#s.variant.width } 1#s.variant.width
        responses := s.responses ++ [.done] } ∧
    ∀ x, decode s.variant ⟨0x02#8, x⟩ = .ok .constructDefault

/-- R74: RESET reseeds from SEED, which it does not write, and completes; right after a construction it changes no
register, and two are as good as one. -/
def Obligations.ResetRewindsToTheStoredSeed : Prop :=
  ∀ s : State,
    let e := seedW s.variant s.engine s.engine.seed
    exec .reset s = .next { s with engine := e, responses := s.responses ++ [.done] } ∧
    e.seed = s.engine.seed ∧
    exec .reset { s with engine := e } = .next { s with engine := e, responses := s.responses ++ [.done] } ∧
    (∀ x : BitVec s.variant.width,
      exec .reset { s with engine := constructEngine s.variant s.engine x } =
        .next { s with engine := constructEngine s.variant s.engine x, responses := s.responses ++ [.done] }) ∧
    ∀ x, decode s.variant ⟨0x03#8, x⟩ = .ok .reset

/-- R75: after a construction with seed `x`, by a command or by `rst`, and any commands that construct nothing, illegal
ones among them, RESET leaves the registers as they were right after the construction. -/
def Obligations.ResetRestoresTheConstructedState : Prop :=
  ∀ (v : Variant) (e : Engine v.width) (f : Bool) (r : List (Response v.width)) (x y : BitVec v.width)
    (construction : Input v.width) (ts : List (Transaction v.width)) (rest : List (Input v.width)),
    ConstructsWith x construction → (∀ t ∈ ts, ConstructsNothing t) →
      let after : List (Input v.width) := ts.map .command ++ .command ⟨0x03#8, y⟩ :: rest
      let s : State := { variant := v, engine := e, faulted := f, pending := construction :: after, responses := r }
      let r₁ := r ++ constructionAnswer construction
      ∃ (e' : Engine v.width) (f' : Bool) (new : List (Response v.width)),
        hardwareRun 1 s = { variant := v, engine := e', faulted := f, pending := after, responses := r₁ } ∧
        hardwareRun (ts.length + 2) s =
          { variant := v, engine := e', faulted := f', pending := rest, responses := r₁ ++ new ++ [.done] } ∧
        new.length = ts.length ∧ e'.seed = x

/-- No TinyMT32 seed leaves a degenerate ST, after the mixing passes or after the warm-up. -/
def Obligations.NoSeedOfTinyMT32IsDegenerate : Prop :=
  ∀ (e : Engine 32) (s : BitVec 32),
    ¬ Engine.Degenerate .tinymt32 (seedMix32 e s) ∧ ¬ Engine.Degenerate .tinymt32 (seedW .tinymt32 e s)

/-- No TinyMT64 seed leaves a degenerate ST. The spec leaves this open (I12); it follows from R68 alone. -/
def Obligations.NoSeedOfTinyMT64IsDegenerate : Prop :=
  ∀ (e : Engine 64) (s : BitVec 64), ¬ Engine.Degenerate .tinymt64 (seedW .tinymt64 e s)

/-! ### 41_state_advance.md -/

/-- R78: NextState32, written out. -/
def Obligations.NextState32Recurrence : Prop :=
  ∀ e : Engine 32,
    let x₀ := (e.st.e0 &&& 0x7fffffff#32) ^^^ e.st.e1 ^^^ e.st.e2
    let x := x₀ ^^^ (x₀ <<< 1)
    let y := e.st.e3 ^^^ ((e.st.e3 >>> 1) ^^^ x)
    (y.getLsbD 0 = true → nextState .tinymt32 e =
      { e with st := ⟨e.st.e1, e.st.e2 ^^^ e.mat1, x ^^^ (y <<< 10) ^^^ e.mat2, y⟩ }) ∧
    (y.getLsbD 0 = false → nextState .tinymt32 e = { e with st := ⟨e.st.e1, e.st.e2, x ^^^ (y <<< 10), y⟩ })

/-- R79: NextState64, written out. -/
def Obligations.NextState64Recurrence : Prop :=
  ∀ e : Engine 64,
    let x₀ := (e.st.e0 &&& 0x7fffffffffffffff#64) ^^^ e.st.e1
    let x₁ := x₀ ^^^ (x₀ <<< 12)
    let x₂ := x₁ ^^^ (x₁ >>> 32)
    let x₃ := x₂ ^^^ (x₂ <<< 32)
    let x := x₃ ^^^ (x₃ <<< 11)
    (x.getLsbD 0 = true → nextState .tinymt64 e =
      { e with st := ⟨e.st.e1 ^^^ e.mat1, x ^^^ (e.mat2 <<< 32), e.st.e2, e.st.e3⟩ }) ∧
    (x.getLsbD 0 = false → nextState .tinymt64 e = { e with st := ⟨e.st.e1, x, e.st.e2, e.st.e3⟩ })

/-- R77: NextState writes only ST, and what it writes depends on ST, MAT1 and MAT2 alone. -/
def Obligations.NextStateReadsAndWrites : Prop :=
  ∀ (v : Variant) (e e' : Engine v.width),
    nextState v e = { e with st := (nextState v e).st } ∧
    (e.st = e'.st → e.mat1 = e'.mat1 → e.mat2 = e'.mat2 → (nextState v e).st = (nextState v e').st)

/-- R80: NextState64 neither reads nor writes ST[2] and ST[3]. -/
def Obligations.NextState64IgnoresSpareEntries : Prop :=
  ∀ (e : Engine 64) (a b : BitVec 64),
    (nextState .tinymt64 e).st.e2 = e.st.e2 ∧ (nextState .tinymt64 e).st.e3 = e.st.e3 ∧
    nextState .tinymt64 { e with st := { e.st with e2 := a, e3 := b } } =
      { nextState .tinymt64 e with st := { (nextState .tinymt64 e).st with e2 := a, e3 := b } }

/-- R81: the mask form gives the same as the branch, for every word and every bit, so that both recurrences may be
built with it. -/
def Obligations.MaskFormIsTheConditionalXor : Prop :=
  ∀ (v : Variant) (x a k : BitVec v.width),
    (bitMask (bit0 x) : BitVec v.width) = (if x.getLsbD 0 then BitVec.allOnes v.width else 0) ∧
    a ^^^ (bitMask (bit0 x) &&& k) = (if x.getLsbD 0 then a ^^^ k else a) ∧
    xorWhen (bit0 x) a k = a ^^^ (bitMask (bit0 x) &&& k)

/-- The top bit of the old ST[0] has no effect on an advance. -/
def Obligations.TopBitOfFirstEntryHasNoEffect : Prop :=
  (∀ e : Engine 32,
    nextState .tinymt32 { e with st := { e.st with e0 := e.st.e0 ^^^ 0x80000000#32 } } = nextState .tinymt32 e) ∧
  (∀ e : Engine 64,
    nextState .tinymt64 { e with st := { e.st with e0 := e.st.e0 ^^^ 0x8000000000000000#64 } } = nextState .tinymt64 e)

/-- The degenerate states are those that advance to a degenerate state, whatever the constant registers hold: a
degenerate state advances to all zeros, and no other state reaches one. -/
def Obligations.DegenerateOnlyFromDegenerate : Prop :=
  ∀ (v : Variant) (e : Engine v.width),
    (e.Degenerate ↔ (nextState v e).Degenerate) ∧
    (e.Degenerate → (nextState v e).st.e0 = 0 ∧ (nextState v e).st.e1 = 0 ∧ extract v (nextState v e) = 0)

/-- Each step keeps the registers, reseeds them, or performs one advance, and only GENERATE does the last. -/
def Obligations.AdvanceOnlyByGenerate : Prop :=
  ∀ s : State, ∃ e p f r,
    hardwareStep s = { s with engine := e, pending := p, faulted := f, responses := r } ∧
    (e = s.engine ∨ (∃ x, e = constructEngine s.variant s.engine x) ∨ e = rewindEngine s.variant s.engine ∨
      (e = nextState s.variant s.engine ∧ ∃ t, s.pending = .command t :: p ∧ t.cmdIn = 0x04#8))

/-! ### 42_extraction.md -/

/-- R84 and R85: Extract32 and Extract64, written out. The first tests the sum, the second the word after the XOR. -/
def Obligations.ExtractFormulas : Prop :=
  (∀ e : Engine 32,
    let t := e.st.e0 + (e.st.e2 >>> 8)
    extract .tinymt32 e = if t.getLsbD 0 then e.st.e3 ^^^ t ^^^ e.tmat else e.st.e3 ^^^ t) ∧
  (∀ e : Engine 64,
    let out := (e.st.e0 + e.st.e1) ^^^ (e.st.e0 >>> 8)
    extract .tinymt64 e = if out.getLsbD 0 then out ^^^ e.tmat else out)

/-- What Extract does not read: in TinyMT32 ST[1] and bits 7..0 of ST[2]; in TinyMT64 ST[2] and ST[3]; in both SEED,
MAT1 and MAT2. -/
def Obligations.ExtractIgnores : Prop :=
  (∀ (e e' : Engine 32), e.st.e0 = e'.st.e0 → e.st.e2 &&& 0xffffff00#32 = e'.st.e2 &&& 0xffffff00#32 →
    e.st.e3 = e'.st.e3 → e.tmat = e'.tmat → extract .tinymt32 e = extract .tinymt32 e') ∧
  (∀ (e e' : Engine 64), e.st.e0 = e'.st.e0 → e.st.e1 = e'.st.e1 → e.tmat = e'.tmat →
    extract .tinymt64 e = extract .tinymt64 e')

/-! ### 43_generate_accessors.md -/

/-- R89: GENERATE completes in every state: one advance, one extraction on the advanced state, and SEED, MAT1, MAT2
and TMAT as they were. -/
def Obligations.GenerateAdvancesThenExtracts : Prop :=
  ∀ s : State,
    exec .generate s =
      .next { s with
        engine := { s.engine with st := (nextState s.variant s.engine).st }
        responses := s.responses ++ [.data (extract s.variant (nextState s.variant s.engine))] } ∧
    ∀ x, decode s.variant ⟨0x04#8, x⟩ = .ok .generate

/-- R90: the k-th GENERATE after a construction with seed `x`, by a command or by `rst`, returns
Extract(NextState^k(Seed(x))), whatever accessors and illegal commands stand between. -/
def Obligations.KthGenerateAfterConstruct : Prop :=
  ∀ (v : Variant) (e : Engine v.width) (f : Bool) (r : List (Response v.width)) (x y : BitVec v.width)
    (construction : Input v.width) (ts : List (Transaction v.width)) (rest : List (Input v.width)),
    ConstructsWith x construction → (∀ t ∈ ts, ReseedsNothing t) →
      let s : State :=
        { variant := v, engine := e, faulted := f, responses := r,
          pending := construction :: (ts.map .command ++ .command ⟨0x04#8, y⟩ :: rest) }
      let k := (ts.countP fun t => t.cmdIn == 0x04#8) + 1
      let eₖ := (nextState v)^[k] (seedW v { e with seed := x } x)
      ∃ (f' : Bool) (new : List (Response v.width)),
        hardwareRun (ts.length + 2) s =
          { variant := v, engine := eₖ, faulted := f', pending := rest,
            responses := r ++ constructionAnswer construction ++ new ++ [.data (extract v eₖ)] } ∧
        new.length = ts.length

/-- R91: MIN_VALUE answers 0 in every state and changes no register. -/
def Obligations.MinValueAnswersZero : Prop :=
  ∀ s : State,
    exec .minValue s = .next { s with responses := s.responses ++ [.data 0] } ∧
    ∀ x, decode s.variant ⟨0x05#8, x⟩ = .ok .minValue

/-- R92: MAX_VALUE answers 2^W − 1, all ones, in every state and changes no register. -/
def Obligations.MaxValueAnswersAllOnes : Prop :=
  ∀ s : State,
    exec .maxValue s = .next { s with responses := s.responses ++ [.data (BitVec.allOnes s.variant.width)] } ∧
    (s.variant = .tinymt32 → (BitVec.allOnes s.variant.width).toNat = 4294967295) ∧
    (s.variant = .tinymt64 → (BitVec.allOnes s.variant.width).toNat = 18446744073709551615) ∧
    ∀ x, decode s.variant ⟨0x06#8, x⟩ = .ok .maxValue

/-- R93: INITIAL_SEED answers SEED in every state and changes no register. -/
def Obligations.InitialSeedAnswersSeed : Prop :=
  ∀ s : State,
    exec .initialSeed s = .next { s with responses := s.responses ++ [.data s.engine.seed] } ∧
    ∀ x, decode s.variant ⟨0x07#8, x⟩ = .ok .initialSeed

/-- After a construction with seed `x`, by a command or by `rst`, and any commands that construct nothing, INITIAL_SEED
returns `x`. -/
def Obligations.InitialSeedSurvivesResetAndGenerate : Prop :=
  ∀ (v : Variant) (e : Engine v.width) (f : Bool) (r : List (Response v.width)) (x y : BitVec v.width)
    (construction : Input v.width) (ts : List (Transaction v.width)) (rest : List (Input v.width)),
    ConstructsWith x construction → (∀ t ∈ ts, ConstructsNothing t) →
      let s : State :=
        { variant := v, engine := e, faulted := f, responses := r,
          pending := construction :: (ts.map .command ++ .command ⟨0x07#8, y⟩ :: rest) }
      ∃ (e' : Engine v.width) (f' : Bool) (new : List (Response v.width)),
        hardwareRun (ts.length + 2) s =
          { variant := v, engine := e', faulted := f', pending := rest,
            responses := r ++ constructionAnswer construction ++ new ++ [.data x] } ∧
        new.length = ts.length

/-- R94: every generated word lies between the word MIN_VALUE answers and the word MAX_VALUE answers. -/
def Obligations.GeneratedWordsWithinBounds : Prop :=
  ∀ s : State, ∃ (e : Engine s.variant.width) (v lo hi : BitVec s.variant.width),
    exec .generate s = .next { s with engine := e, responses := s.responses ++ [.data v] } ∧
    exec .minValue s = .next { s with responses := s.responses ++ [.data lo] } ∧
    exec .maxValue s = .next { s with responses := s.responses ++ [.data hi] } ∧
    lo = 0 ∧ lo ≤ v ∧ v ≤ hi

/-- R99: two engines constructed with the same seed, each in any of the ways to construct, answer any number of
GENERATEs alike. -/
def Obligations.SameSeedSameSequence : Prop :=
  ∀ (v : Variant) (x : BitVec v.width) (k : Nat) (c c' : Input v.width) (ys ys' : List (BitVec v.width))
    (e e' : Engine v.width) (f f' : Bool) (r r' : List (Response v.width)),
    ConstructsWith x c → ConstructsWith x c' → ys.length = k → ys'.length = k →
    ∃ words : List (BitVec v.width), words.length = k ∧
      (runToEnd { variant := v, engine := e, faulted := f, responses := r,
                  pending := c :: ys.map fun y => .command ⟨0x04#8, y⟩ }) =
        { variant := v, engine := (nextState v)^[k] (constructEngine v e x), faulted := f, pending := [],
          responses := r ++ constructionAnswer c ++ words.map .data } ∧
      (runToEnd { variant := v, engine := e', faulted := f', responses := r',
                  pending := c' :: ys'.map fun y => .command ⟨0x04#8, y⟩ }) =
        { variant := v, engine := (nextState v)^[k] (constructEngine v e x), faulted := f', pending := [],
          responses := r' ++ constructionAnswer c' ++ words.map .data }

/-- R44: what each command does when it is performed twice in a row. The accessors change no register and answer alike;
two RESETs, and two CONSTRUCTs of one seed, leave the registers of one; RESET rewrites the constants with their own
values; GENERATE advances ST, and from the reset state a second GENERATE changes ST again and answers another word. -/
def Obligations.IdempotencyByCommand : Prop :=
  (∀ s : State, ∀ i ∈ [Instr.minValue, .maxValue, .initialSeed],
    ∃ r, exec i s = .next { s with responses := s.responses ++ [r] } ∧
      exec i { s with responses := s.responses ++ [r] } = .next { s with responses := s.responses ++ [r, r] }) ∧
  (∀ s : State, ∃ e : Engine s.variant.width,
    exec .reset s = .next { s with engine := e, responses := s.responses ++ [.done] } ∧
    exec .reset { s with engine := e, responses := s.responses ++ [.done] } =
      .next { s with engine := e, responses := s.responses ++ [.done, .done] } ∧
    (s.engine.TableConstants → e.mat1 = s.engine.mat1 ∧ e.mat2 = s.engine.mat2 ∧ e.tmat = s.engine.tmat)) ∧
  (∀ (s : State) (x : BitVec s.variant.width), ∃ e : Engine s.variant.width,
    exec (.construct x.toNat) s = .next { s with engine := e, responses := s.responses ++ [.done] } ∧
    exec (.construct x.toNat) { s with engine := e, responses := s.responses ++ [.done] } =
      .next { s with engine := e, responses := s.responses ++ [.done, .done] }) ∧
  (∀ s : State, ∃ x, exec .generate s =
    .next { s with engine := nextState s.variant s.engine, responses := s.responses ++ [.data x] }) ∧
  (∀ v : Variant, ∃ (e₁ e₂ : Engine v.width) (x₁ x₂ : BitVec v.width),
    exec .generate (State.resetOf v) = .next { State.resetOf v with engine := e₁, responses := [.data x₁] } ∧
    exec .generate { State.resetOf v with engine := e₁, responses := [.data x₁] } =
      .next { State.resetOf v with engine := e₂, responses := [.data x₁, .data x₂] } ∧
    e₁.st ≠ (State.resetOf v).engine.st ∧ e₂.st ≠ e₁.st ∧ x₁ ≠ x₂)

/-! ### 60_exceptions.md -/

/-- R100: an illegal command changes no register, answers ILLEGAL, sets FAULTED, and is named by the fault. -/
def Obligations.IllegalCommandFaults : Prop :=
  ∀ (s : State) (t : Transaction s.variant.width) (rest : List (Input s.variant.width)),
    s.pending = .command t :: rest → (t.cmdIn = 0x00#8 ∨ 0x08 ≤ t.cmdIn.toNat) →
      step s = .fault (.illegalCommand t.cmdIn
        { s with pending := rest, faulted := true, responses := s.responses ++ [.illegal] })

/-- Only an illegal command word stops a step, and nothing is ever refused. -/
def Obligations.OnlyIllegalWordsStopTheMachine : Prop :=
  ∀ s : State,
    (∀ r, step s ≠ .refused r) ∧
    (∀ c left, step s = .fault (.illegalCommand c left) →
      ¬ Byte.Legal c ∧ ∃ x rest, s.pending = .command ⟨c, x⟩ :: rest) ∧
    ((∃ t, step s = .next t) ↔ ∀ input rest, s.pending = input :: rest → input.Legal)

/-- R102: each command completes in every state for every operand of the word: it answers once, and changes neither
the pending inputs nor FAULTED. -/
def Obligations.TheSevenCommandsRaiseNothing : Prop :=
  ∀ (s : State) (i : Instr), i.wellFormed s.variant = true →
    ∃ e r, exec i s = .next { s with engine := e, responses := s.responses ++ [r] } ∧ r ≠ .illegal

/-- R103: an illegal word is a fault that names it and sets FAULTED; no command and no `rst` clears the mark; the
hardware leaves the registers as they were and accepts the next command from that state. -/
def Obligations.FaultedIsNeverCleared : Prop :=
  (∀ (s : State) (t : Transaction s.variant.width) (rest : List (Input s.variant.width)),
    s.pending = .command t :: rest → ¬ Byte.Legal t.cmdIn →
      ∃ left, step s = .fault (.illegalCommand t.cmdIn left) ∧ left.faulted = true ∧
        left = { s with pending := rest, faulted := true, responses := s.responses ++ [.illegal] } ∧
        hardwareStep s = left) ∧
  (∀ (s : State) (n : Nat), s.faulted = true → (hardwareRun n s).faulted = true) ∧
  (∀ (s t : State) (n : Nat), Sys2Proof.core.run n s = .next t → t.faulted = s.faulted)

/-- After answering ILLEGAL the hardware performs the next command as it would have without the illegal one. -/
def Obligations.HardwareGoesOnAfterIllegal : Prop :=
  ∀ (v : Variant) (e : Engine v.width) (f : Bool) (t t' : Transaction v.width) (rest : List (Input v.width))
    (r : List (Response v.width)),
    ¬ Byte.Legal t.cmdIn → Byte.Legal t'.cmdIn →
      ∃ e' r',
        hardwareRun 1 { variant := v, engine := e, faulted := f, pending := .command t' :: rest, responses := r } =
          { variant := v, engine := e', faulted := f, pending := rest, responses := r ++ [r'] } ∧
        hardwareRun 2 { variant := v, engine := e, faulted := f, pending := .command t :: .command t' :: rest,
                        responses := r } =
          { variant := v, engine := e', faulted := true, pending := rest, responses := r ++ [.illegal, r'] }

/-! ### Steps, runs, and several engines -/

/-- A step performs the command the next transaction decodes to, with that transaction taken off the pending ones. -/
def Obligations.StepRunsTheDecodedCommand : Prop :=
  ∀ (s : State) (t : Transaction s.variant.width) (rest : List (Input s.variant.width)) (i : Instr),
    s.pending = .command t :: rest → decode s.variant t = .ok i → step s = exec i { s with pending := rest }

/-- With nothing pending the engine holds its registers. The model's choice: such a step is a next state
(notes/assumptions/3.md). -/
def Obligations.IdleHoldsTheRegisters : Prop :=
  ∀ s : State, s.pending = [] → step s = .next s

/-- R125 with R124: a finite list of inputs is performed to its end, in as many steps, with one response for each
command; if every word is legal the model reaches that end too. -/
def Obligations.EveryRunReachesItsEnd : Prop :=
  ∀ s : State,
    (runToEnd s).pending.length = 0 ∧
    (runToEnd s).responses.length = s.responses.length + (s.pending.filter Input.isCommand).length ∧
    ((∀ input ∈ s.pending, input.Legal) → Sys2Proof.core.run s.pending.length s = .next (runToEnd s)) ∧
    (s.Safe → (SafeRun s.pending.length s ↔ ∀ input ∈ s.pending, input.Legal))

/-- R47: a step of one engine of a system changes no other, and steps of two engines may be taken in either order. -/
def Obligations.EnginesShareNothing : Prop :=
  ∀ (m : System) (j k : Nat), j ≠ k →
    (m.stepAt j).engines[k]? = m.engines[k]? ∧
    (m.stepAt j).engines[j]? = m.engines[j]?.map hardwareStep ∧
    (m.stepAt j).stepAt k = (m.stepAt k).stepAt j

/-- Whatever the schedule of two issuers that only generate and read, the engine ends advanced once for each GENERATE
of either. -/
def Obligations.EveryScheduleAdvancesAlike : Prop :=
  ∀ (v : Variant) (e : Engine v.width) (f : Bool) (r : List (Response v.width))
    (xs ys zs : List (Transaction v.width)),
    Interleaving xs ys zs →
    (∀ t ∈ xs ++ ys, ReseedsNothing t) →
      ∃ f' r',
        runToEnd { variant := v, engine := e, faulted := f, pending := zs.map .command, responses := r } =
          { variant := v
            engine := (nextState v)^[(xs.countP fun t => t.cmdIn == 0x04#8) + ys.countP fun t => t.cmdIn == 0x04#8] e
            faulted := f'
            pending := []
            responses := r' }
end

