-- ==== Sys2Proof/Laws/Decode.lean ====
section
/-! SUPPORT. What the decoder can answer, said once. -/

namespace Sys2Proof

/-- The opcode of a mnemonic, as a table of its own for the lemmas below. -/
def Mnemonic.opcode (m : Mnemonic) : Byte := (m.instr 0).opcode

theorem Mnemonic.instr_opcode (m : Mnemonic) (seed : Nat) : (m.instr seed).opcode = m.opcode := by cases m <;> rfl

theorem Mnemonic.instr_mnemonic (m : Mnemonic) (seed : Nat) : (m.instr seed).mnemonic = m := by cases m <;> rfl

/-- A word selects a mnemonic exactly when it is that mnemonic's opcode. -/
theorem selectMnemonic_eq_some_iff (c : Byte) (m : Mnemonic) : selectMnemonic c = some m ↔ c = m.opcode := by
  revert c
  cases m <;> decide

/-- A word selects no mnemonic exactly when it is outside 1..7. -/
theorem selectMnemonic_eq_none_iff (c : Byte) : selectMnemonic c = none ↔ ¬ (1 ≤ c.toNat ∧ c.toNat ≤ 7) := by
  revert c
  decide

/-- What `decode` answers, by what the command word selects. -/
theorem decode_cases (v : Variant) (t : Transaction v.width) :
    (∃ m : Mnemonic, t.cmdIn = m.opcode ∧ decode v t = .ok (m.instr t.seedIn.toNat)) ∨
      (selectMnemonic t.cmdIn = none ∧ decode v t = .error (.illegal t.cmdIn)) := by
  cases h : selectMnemonic t.cmdIn with
  | some m => exact .inl ⟨m, (selectMnemonic_eq_some_iff _ _).1 h, by simp [decode, h]⟩
  | none => exact .inr ⟨rfl, by simp [decode, h]⟩

end Sys2Proof
end

