-- ==== Sys2Proof/Laws/State.lean ====
section
/-! SUPPORT. One lemma for each field of each update of the state and of the registers, so that no later proof unfolds a
record update. -/

namespace Sys2Proof.Machine

section Complete

variable (s : State) (e : Engine s.variant.width) (r : Response s.variant.width)

@[simp] theorem State.complete_variant : (s.complete e r).variant = s.variant := rfl
@[simp] theorem State.complete_engine : (s.complete e r).engine = e := rfl
@[simp] theorem State.complete_faulted : (s.complete e r).faulted = s.faulted := rfl
@[simp] theorem State.complete_pending : (s.complete e r).pending = s.pending := rfl
@[simp] theorem State.complete_responses : (s.complete e r).responses = s.responses ++ [r] := rfl

end Complete

section Inputs

variable (s : State)

@[simp] theorem State.applyRst_variant : (applyRst s).variant = s.variant := rfl
@[simp] theorem State.applyRst_engine :
    (applyRst s).engine = constructEngine s.variant s.engine (defaultSeed s.variant.width) := rfl
@[simp] theorem State.applyRst_faulted : (applyRst s).faulted = s.faulted := rfl
@[simp] theorem State.applyRst_pending : (applyRst s).pending = s.pending := rfl
@[simp] theorem State.applyRst_responses : (applyRst s).responses = s.responses := rfl

variable (inputs : List (Input s.variant.width)) (t : Transaction s.variant.width)

@[simp] theorem State.issue_engine : (s.issue inputs).engine = s.engine := rfl
@[simp] theorem State.issue_pending : (s.issue inputs).pending = s.pending ++ inputs := rfl
@[simp] theorem State.present_engine : (s.present t).engine = s.engine := rfl
@[simp] theorem State.present_pending : (s.present t).pending = .command t :: s.pending := rfl

end Inputs

section Reset

variable (v : Variant)

@[simp] theorem State.resetOf_variant : (State.resetOf v).variant = v := rfl
@[simp] theorem State.resetOf_engine : (State.resetOf v).engine = resetEngine v := rfl
@[simp] theorem State.resetOf_faulted : (State.resetOf v).faulted = false := rfl
@[simp] theorem State.resetOf_pending : (State.resetOf v).pending = [] := rfl
@[simp] theorem State.resetOf_responses : (State.resetOf v).responses = [] := rfl

end Reset

section Registers

variable (v : Variant) (e : Engine v.width) (s : BitVec v.width)

@[simp] theorem nextState_seed : (nextState v e).seed = e.seed := by cases v <;> rfl
@[simp] theorem nextState_mat1 : (nextState v e).mat1 = e.mat1 := by cases v <;> rfl
@[simp] theorem nextState_mat2 : (nextState v e).mat2 = e.mat2 := by cases v <;> rfl
@[simp] theorem nextState_tmat : (nextState v e).tmat = e.tmat := by cases v <;> rfl

@[simp] theorem seedW_seed : (seedW v e s).seed = e.seed := by cases v <;> rfl
@[simp] theorem seedW_mat1 : (seedW v e s).mat1 = mat1Of v := by cases v <;> rfl
@[simp] theorem seedW_mat2 : (seedW v e s).mat2 = mat2Of v := by cases v <;> rfl
@[simp] theorem seedW_tmat : (seedW v e s).tmat = tmatOf v := by cases v <;> rfl

@[simp] theorem constructEngine_seed : (constructEngine v e s).seed = s := seedW_seed v _ s
@[simp] theorem rewindEngine_seed : (rewindEngine v e).seed = e.seed := seedW_seed v e _

end Registers

section Array

variable {w : Nat} (st : StateArray w) (x : BitVec w)

@[simp] theorem StateArray.get_zero : st.get 0 = st.e0 := rfl
@[simp] theorem StateArray.get_one : st.get 1 = st.e1 := rfl
@[simp] theorem StateArray.get_two : st.get 2 = st.e2 := rfl
@[simp] theorem StateArray.get_three : st.get 3 = st.e3 := rfl
@[simp] theorem StateArray.set_zero : st.set 0 x = { st with e0 := x } := rfl
@[simp] theorem StateArray.set_one : st.set 1 x = { st with e1 := x } := rfl
@[simp] theorem StateArray.set_two : st.set 2 x = { st with e2 := x } := rfl
@[simp] theorem StateArray.set_three : st.set 3 x = { st with e3 := x } := rfl

end Array

end Sys2Proof.Machine
end

