-- ==== Sys2Proof/Laws/Ops.lean ====
section
/-! SUPPORT. One lemma for each shared operation that says everything it can do. -/

namespace Sys2Proof.Machine

theorem xorWhen_true {w : Nat} (x k : BitVec w) : xorWhen true x k = x ^^^ k := rfl

theorem xorWhen_false {w : Nat} (x k : BitVec w) : xorWhen false x k = x := rfl

theorem seedOperand_of_lt (v : Variant) {seed : Nat} (h : seed < 2 ^ v.width) :
    seedOperand v seed = some (BitVec.ofNat v.width seed) := if_pos h

theorem seedOperand_of_ge (v : Variant) {seed : Nat} (h : ¬ seed < 2 ^ v.width) : seedOperand v seed = none := if_neg h

/-- What the next input is, and what is left pending. -/
theorem fetch_cases (s : State) :
    (s.pending = [] ∧ fetch s = .idle) ∨
    (∃ rest, s.pending = .rst :: rest ∧ fetch s = .rst { s with pending := rest }) ∨
    (∃ t rest, ∃ m : Mnemonic, s.pending = .command t :: rest ∧ t.cmdIn = m.opcode ∧
      fetch s = .command (m.instr t.seedIn.toNat) { s with pending := rest }) ∨
    (∃ t rest, s.pending = .command t :: rest ∧ selectMnemonic t.cmdIn = none ∧
      fetch s = .illegal t.cmdIn { s with pending := rest }) := by
  obtain ⟨v, e, f, p, r⟩ := s
  match p with
  | [] => exact .inl ⟨rfl, rfl⟩
  | .rst :: rest => exact .inr (.inl ⟨rest, rfl, rfl⟩)
  | .command t :: rest =>
    obtain ⟨m, hm, hd⟩ | ⟨hn, hd⟩ := decode_cases v t
    · exact .inr (.inr (.inl ⟨t, rest, m, rfl, hm, by simp [fetch, hd]⟩))
    · exact .inr (.inr (.inr ⟨t, rest, rfl, hn, by simp [fetch, hd]⟩))

end Sys2Proof.Machine
end

