-- ==== Sys2Proof/Laws/PerInstr.lean ====
section
/-! SUPPORT. Per-instruction families: one lemma for each constructor of `Instr`. -/

namespace Sys2Proof.Laws.OpcodeMap

/-- The command's own opcode selects its mnemonic (R54). -/
def Statement (i : Instr) : Prop := selectMnemonic i.opcode = some i.mnemonic

theorem construct (seed : Nat) : Statement (.construct seed) :=
  (by decide : selectMnemonic 0x01#8 = some .construct)
theorem constructDefault : Statement .constructDefault :=
  (by decide : selectMnemonic 0x02#8 = some .constructDefault)
theorem reset : Statement .reset :=
  (by decide : selectMnemonic 0x03#8 = some .reset)
theorem generate : Statement .generate :=
  (by decide : selectMnemonic 0x04#8 = some .generate)
theorem minValue : Statement .minValue :=
  (by decide : selectMnemonic 0x05#8 = some .minValue)
theorem maxValue : Statement .maxValue :=
  (by decide : selectMnemonic 0x06#8 = some .maxValue)
theorem initialSeed : Statement .initialSeed :=
  (by decide : selectMnemonic 0x07#8 = some .initialSeed)

end Sys2Proof.Laws.OpcodeMap
end

