-- ==== Sys2Proof/Laws/Step.lean ====
section
/-! SUPPORT. What a command and a step can do, said once; invariants are derived from these. -/

namespace Sys2Proof.Machine

/-- What a command writes: a construction, a rewind, an advance, or no register. -/
inductive CommandEffect (v : Variant) (e : Engine v.width) : Mnemonic → Engine v.width → Prop where
  | construct (x : BitVec v.width) : CommandEffect v e .construct (constructEngine v e x)
  | constructDefault : CommandEffect v e .constructDefault (constructEngine v e (defaultSeed v.width))
  | reset : CommandEffect v e .reset (rewindEngine v e)
  | generate : CommandEffect v e .generate (nextState v e)
  | minValue : CommandEffect v e .minValue e
  | maxValue : CommandEffect v e .maxValue e
  | initialSeed : CommandEffect v e .initialSeed e

/-- A decoded command completes with exactly one response, and writes what `CommandEffect` says. -/
theorem exec_instr (m : Mnemonic) (s : State) (x : BitVec s.variant.width) :
    ∃ e r, exec (m.instr x.toNat) s = .next (s.complete e r) ∧ CommandEffect s.variant s.engine m e := by
  cases m with
  | construct =>
    refine ⟨constructEngine s.variant s.engine x, .done, ?_, .construct x⟩
    simp [exec, Mnemonic.instr, execConstruct, seedOperand_of_lt s.variant x.isLt]
  | constructDefault => exact ⟨_, _, rfl, .constructDefault⟩
  | reset => exact ⟨_, _, rfl, .reset⟩
  | generate => exact ⟨_, _, rfl, .generate⟩
  | minValue => exact ⟨_, _, rfl, .minValue⟩
  | maxValue => exact ⟨_, _, rfl, .maxValue⟩
  | initialSeed => exact ⟨_, _, rfl, .initialSeed⟩

/-- What a step of the hardware does: it idles, resets, performs a command, or answers an illegal word. -/
theorem hardwareStep_cases (s : State) :
    (s.pending = [] ∧ hardwareStep s = s) ∨
    (∃ rest, s.pending = .rst :: rest ∧ hardwareStep s = applyRst { s with pending := rest }) ∨
    (∃ t rest, ∃ m : Mnemonic, ∃ e r, s.pending = .command t :: rest ∧ t.cmdIn = m.opcode ∧
      CommandEffect s.variant s.engine m e ∧
      hardwareStep s = { s with engine := e, pending := rest, responses := s.responses ++ [r] }) ∨
    (∃ t rest, s.pending = .command t :: rest ∧ selectMnemonic t.cmdIn = none ∧
      hardwareStep s = { s with faulted := true, pending := rest, responses := s.responses ++ [.illegal] }) := by
  obtain ⟨hp, hf⟩ | ⟨rest, hp, hf⟩ | ⟨t, rest, m, hp, hm, hf⟩ | ⟨t, rest, hp, hn, hf⟩ := fetch_cases s
  · exact .inl ⟨hp, by simp [hardwareStep, step, hf, goOnFrom]⟩
  · exact .inr (.inl ⟨rest, hp, by simp [hardwareStep, step, hf, goOnFrom]⟩)
  · obtain ⟨e, r, hx, he⟩ := exec_instr m { s with pending := rest } t.seedIn
    refine .inr (.inr (.inl ⟨t, rest, m, e, r, hp, hm, he, ?_⟩))
    simp [hardwareStep, step, hf, hx, goOnFrom, State.complete]
  · exact .inr (.inr (.inr ⟨t, rest, hp, hn, by simp [hardwareStep, step, hf, goOnFrom, raiseIllegalCommand]⟩))

/-- Where a step answers a next state, the hardware's step is that state. -/
theorem hardwareStep_of_next {s t : State} (h : step s = .next t) : hardwareStep s = t := by
  simp [hardwareStep, h, goOnFrom]

@[simp] theorem constructionAnswer_rst {w : Nat} : constructionAnswer (.rst : Input w) = [] := rfl
@[simp] theorem constructionAnswer_command {w : Nat} (t : Transaction w) : constructionAnswer (.command t) = [.done] :=
  rfl

/-- What a step on a construction does, whichever of the three inputs it is. -/
theorem hardwareStep_construction {v : Variant} {x : BitVec v.width} {i : Input v.width} (h : ConstructsWith x i)
    (e : Engine v.width) (f : Bool) (p : List (Input v.width)) (r : List (Response v.width)) :
    hardwareStep { variant := v, engine := e, faulted := f, pending := i :: p, responses := r } =
      { variant := v, engine := constructEngine v e x, faulted := f, pending := p,
        responses := r ++ constructionAnswer i } := by
  cases i with
  | rst =>
    obtain rfl : x = 1#v.width := h
    simp [hardwareStep, step, fetch, goOnFrom, applyRst, defaultSeed]
  | command t =>
    obtain ⟨c, y⟩ := t
    obtain ⟨rfl, rfl⟩ | ⟨rfl, rfl⟩ := h
    · have hm : selectMnemonic 0x01#8 = some .construct := by decide
      simp [hardwareStep, step, fetch, goOnFrom, decode, hm, Mnemonic.instr, exec, execConstruct, seedOperand_of_lt v y.isLt, State.complete]
    · have hm : selectMnemonic 0x02#8 = some .constructDefault := by decide
      simp [hardwareStep, step, fetch, goOnFrom, decode, hm, Mnemonic.instr, exec, execConstructDefault, State.complete, defaultSeed]

/-- A run of the hardware, one step at a time. -/
theorem hardwareRun_succ (n : Nat) (s : State) : hardwareRun (n + 1) s = hardwareRun n (hardwareStep s) := rfl

/-- A run of the hardware in two parts. -/
theorem hardwareRun_add (m n : Nat) (s : State) : hardwareRun (m + n) s = hardwareRun n (hardwareRun m s) := by
  rw [hardwareRun, Nat.add_comm, Function.iterate_add_apply]
  rfl

/-- A run of the model goes on from a next state. -/
theorem core_run_of_next {s t : State} (n : Nat) (h : step s = .next t) :
    Sys2Proof.core.run (n + 1) s = Sys2Proof.core.run n t := by
  have hs : Sys2Proof.core.step s = .next t := h
  simp only [Host.Core.run, hs]

/-- A run of the model stops at a fault. -/
theorem core_run_of_fault {s : State} {r : Fault} (n : Nat) (h : step s = .fault r) :
    Sys2Proof.core.run (n + 1) s = .fault r := by
  have hs : Sys2Proof.core.step s = .fault r := h
  simp only [Host.Core.run, hs]

end Sys2Proof.Machine
end

