-- ==== Sys2Proof/Tests/Slice0.lean ====
section
/-! SUPPORT. Tests. Every expected value is from the spec: 95_test_vectors.md, or the worked example of the rule named.
Words are written out from the encodings of 30_encoding.md R54. -/

namespace Sys2Proof.Tests

open Sys2Proof.Machine

/-! ### Helpers: one field or two of an outcome, as numbers -/

/-- SEED and ST[0..3] after a next state. -/
def registersAfter : Host.Outcome State Fault Refusal → List Nat
  | .next t => [t.engine.seed.toNat, t.engine.st.e0.toNat, t.engine.st.e1.toNat, t.engine.st.e2.toNat,
      t.engine.st.e3.toNat]
  | .fault _ => []
  | .refused _ => []

/-- `rsp_data` of the last response after a next state. -/
def dataAfter : Host.Outcome State Fault Refusal → Option Nat
  | .next t => (t.responses.getLast?.bind Response.value).map BitVec.toNat
  | .fault _ => none
  | .refused _ => none

/-- `rsp_status` of the last response after a next state. -/
def statusAfter : Host.Outcome State Fault Refusal → Option Nat
  | .next t => (t.responses.getLast?.map Response.status).map BitVec.toNat
  | .fault _ => none
  | .refused _ => none

/-- The command word a fault names, and FAULTED and SEED in the state it leaves. -/
def faultOf : Host.Outcome State Fault Refusal → Option (Nat × Bool × Nat)
  | .next _ => none
  | .fault (.illegalCommand c left) => some (c.toNat, left.faulted, left.engine.seed.toNat)
  | .refused _ => none

/-- A variant's state after `rst`, with one transaction presented. -/
def presented (v : Variant) (cmdIn seedIn : Nat) : State :=
  (State.resetOf v).present ⟨BitVec.ofNat 8 cmdIn, BitVec.ofNat _ seedIn⟩

/-- An engine with ST as given, and everything else as after `rst`. -/
def withArray32 (a b c d : Nat) : Engine 32 :=
  { resetEngine .tinymt32 with
    st := ⟨BitVec.ofNat 32 a, BitVec.ofNat 32 b, BitVec.ofNat 32 c, BitVec.ofNat 32 d⟩ }

/-- The TinyMT64 engine with ST[0], ST[1] as given, and everything else as after `rst`. -/
def withArray64 (a b : Nat) : Engine 64 :=
  { resetEngine .tinymt64 with st := ⟨BitVec.ofNat 64 a, BitVec.ofNat 64 b, 0, 0⟩ }

/-- ST[0..3] as numbers. -/
def arrayWords {w : Nat} (e : Engine w) : List Nat :=
  [e.st.e0.toNat, e.st.e1.toNat, e.st.e2.toNat, e.st.e3.toNat]

/-- ST[0..1] as numbers. -/
def pairWords {w : Nat} (e : Engine w) : List Nat := [e.st.e0.toNat, e.st.e1.toNat]

/-! ### WellFormed -/

/-- 60_exceptions.md R104. -/
theorem test_width_16_refused : wellFormedWidth 16 = false := by decide
/-- 30_encoding.md R59: 2^32 is outside a TinyMT32 word, and inside a TinyMT64 word. -/
theorem test_seed_literal_range :
    ((Instr.construct 0x100000000).wellFormed .tinymt32, (Instr.construct 0x100000000).wellFormed .tinymt64) =
      (false, true) := by decide
theorem test_seed_literal_top :
    ((Instr.construct 0xffffffff).wellFormed .tinymt32, (Instr.construct 0x10000000000000000).wellFormed .tinymt64) =
      (true, false) := by decide

/-! ### Decode (R54, R55; 95_test_vectors.md section 2.9) -/

theorem test_decode_construct :
    (decode .tinymt32 ⟨0b00000001#8, 0x12345678#32⟩).toOption = some (.construct 0x12345678) := by decide
theorem test_decode_construct_wide :
    (decode .tinymt64 ⟨0b00000001#8, 0x0123456789abcdef#64⟩).toOption = some (.construct 0x0123456789abcdef) := by
  decide
theorem test_decode_construct_default :
    (decode .tinymt32 ⟨0b00000010#8, 7#32⟩).toOption = some .constructDefault := by decide
theorem test_decode_reset : (decode .tinymt32 ⟨0b00000011#8, 7#32⟩).toOption = some .reset := by decide
theorem test_decode_generate : (decode .tinymt32 ⟨0b00000100#8, 7#32⟩).toOption = some .generate := by decide
theorem test_decode_min_value : (decode .tinymt32 ⟨0b00000101#8, 7#32⟩).toOption = some .minValue := by decide
theorem test_decode_max_value : (decode .tinymt32 ⟨0b00000110#8, 7#32⟩).toOption = some .maxValue := by decide
theorem test_decode_initial_seed : (decode .tinymt32 ⟨0b00000111#8, 7#32⟩).toOption = some .initialSeed := by decide
theorem test_decode_illegal_words :
    [0x00#8, 0x08#8, 0x2a#8, 0x81#8, 0xff#8].map selectMnemonic = [none, none, none, none, none] := by decide
theorem test_decode_table_word : decodeTableWord 8 0x04 = some .generate := by decide
theorem test_decode_table_word_construct : decodeTableWord 40 0x1234567801 = some (.construct 0x12345678) := by decide

/-! ### The internal operations -/

/-- 95_test_vectors.md section 2.1: the trace of Seed32(1) after each mixing pass. -/
theorem test_mixing_passes_32 :
    (((mixingPasses.scanl mixPass32 (loadArray32 1)).map fun st => [st.e0.toNat, st.e1.toNat, st.e2.toNat, st.e3.toNat]) =
      [[0x00000001, 0x8f7011ee, 0xfc78ff1f, 0x3793fdff], [0x00000001, 0xe3779888, 0xfc78ff1f, 0x3793fdff],
       [0x00000001, 0xe3779888, 0x72e66ec6, 0x3793fdff], [0x00000001, 0xe3779888, 0x72e66ec6, 0x9630ce79],
       [0xe91e498a, 0xe3779888, 0x72e66ec6, 0x9630ce79], [0xe91e498a, 0x1e7bcc9a, 0x72e66ec6, 0x9630ce79],
       [0xe91e498a, 0x1e7bcc9a, 0xa56a4c0e, 0x9630ce79], [0xe91e498a, 0x1e7bcc9a, 0xa56a4c0e, 0xdfc6a2ba]]) := by
  decide
/-- 95_test_vectors.md section 2.2: the trace of Seed64(1) after each mixing pass. -/
theorem test_mixing_passes_64 :
    ((mixingPasses.scanl mixPass64 (loadArray64 1)).map fun st => [st.e0.toNat, st.e1.toNat]) =
      [[0xfa051f4000000001, 0x58d02ffe006f0048], [0xfa051f4000000001, 0x069b09649945fe13],
       [0x01774e7a2f681658, 0x069b09649945fe13], [0x01774e7a2f681658, 0x471cbdca80dc6b68],
       [0x29dc76529f4cee21, 0x471cbdca80dc6b68], [0x29dc76529f4cee21, 0x64df1a180f0151ba],
       [0xef3749c1ffd2ccc4, 0x64df1a180f0151ba], [0xef3749c1ffd2ccc4, 0x72814062c076e9b8]] := by
  decide
/-- 95_test_vectors.md section 2.1, the other seeds. -/
theorem test_seed32 :
    [0x00000000, 0xffffffff, 0x80000000, 0x12345678].map
        (fun s => arrayWords (seed32 (withArray32 9 9 9 9) (BitVec.ofNat 32 s))) =
      [[0x78a495ae, 0x60127f96, 0x0d6f15e9, 0x1969de6c], [0xc9617590, 0xe78a7a46, 0x2acff562, 0x092f22a7],
       [0xdcc611c3, 0x09a41b17, 0x4724fe3d, 0xa5c2d7c6], [0x30814d70, 0xe940d010, 0xe0fa3141, 0x21f8cf22]] := by
  decide
/-- 95_test_vectors.md section 2.2, the other seeds. -/
theorem test_seed64 :
    [0x0, 0xffffffffffffffff, 0x0123456789abcdef, 0xfa051f4000000000].map
        (fun s => pairWords (seed64 (withArray64 9 9) (BitVec.ofNat 64 s))) =
      [[0xaa853adff6892154, 0xac6136b1dd0630c2], [0x3fe5871f7b673f3c, 0xb055351e25eb6340],
       [0x52fe9a71e75d27c4, 0xa6a73c852f0764de], [0x5960fb54cf9fb0fb, 0xac56ec6e938982c3]] := by
  decide
/-- 95_test_vectors.md section 2.3. -/
theorem test_next_state_32 :
    [withArray32 0 0 0 0, withArray32 0x80000000 0 0 0, withArray32 0x7fffffff 0 0 0, withArray32 1 0 0 0,
       withArray32 0 1 0 0, withArray32 0 0 0 1, withArray32 0 0 0 2,
       withArray32 0xffffffff 0xffffffff 0xffffffff 0xffffffff].map (fun e => arrayWords (nextState32 e)) =
      [[0, 0, 0, 0], [0, 0, 0, 0], [0, 0x8f7011ee, 0x7c78fb1e, 0x80000001], [0, 0x8f7011ee, 0xfc78f31c, 3],
       [1, 0x8f7011ee, 0xfc78f31c, 3], [0, 0x8f7011ee, 0xfc78fb1f, 1], [0, 0x8f7011ee, 0xfc78f31f, 3],
       [0xffffffff, 0x708fee11, 0x7c78fb1e, 1]] := by
  decide
/-- 95_test_vectors.md section 2.4. -/
theorem test_next_state_64 :
    [withArray64 0 0, withArray64 0x8000000000000000 0, withArray64 1 0, withArray64 0 1,
       withArray64 0xffffffffffffffff 0xffffffffffffffff, withArray64 0 0x8000000000000000].map
        (fun e => pairWords (nextState64 e)) =
      [[0, 0], [0, 0], [0x00000000fa051f40, 0xff50e7f500801801], [0x00000000fa051f41, 0xff50e7f500801801],
       [0xffffffffffffffff, 0x0000040080000000], [0x8000000000000000, 0x0000040080000000]] := by
  decide
/-- 95_test_vectors.md section 2.5. -/
theorem test_extract_32 :
    [withArray32 0 0 0 0, withArray32 1 0 0 0, withArray32 2 0 0 0, withArray32 0 0 0 0x12345678,
       withArray32 0xffffffff 0 0x100 0, withArray32 0xffffffff 0 0x200 5,
       withArray32 0 0 0xffffffff 0xffffffff].map (fun e => (extract32 e).toNat) =
      [0, 0x3793fdfe, 2, 0x12345678, 0, 0x3793fdfb, 0xc893fdff] := by
  decide
/-- 95_test_vectors.md section 2.6. -/
theorem test_extract_64 :
    [withArray64 0 0, withArray64 1 0, withArray64 0 1, withArray64 0x100 0, withArray64 0x200 1,
       withArray64 0xffffffffffffffff 1, withArray64 0xffffffffffffffff 2].map (fun e => (extract64 e).toNat) =
      [0, 0x58d02ffeffbfffbd, 0x58d02ffeffbfffbd, 0x58d02ffeffbffebd, 0x58d02ffeffbffdbf, 0x582fd00100400043,
       0x00fffffffffffffe] := by
  decide

/-! ### The commands, one step each -/

/-- R72, worked example, and 95_test_vectors.md P2, row 1. -/
theorem test_construct :
    (registersAfter (step (presented .tinymt32 0x01 0x12345678)),
      registersAfter (step (presented .tinymt64 0x01 0x0123456789abcdef))) =
      ([0x12345678, 0x30814d70, 0xe940d010, 0xe0fa3141, 0x21f8cf22],
        [0x0123456789abcdef, 0x52fe9a71e75d27c4, 0xa6a73c852f0764de, 0, 0]) := by decide
/-- R59: a literal outside the word is refused. -/
theorem test_construct_out_of_range :
    registersAfter (exec (.construct 0x100000000) (State.resetOf .tinymt32)) = [] := by decide
/-- 95_test_vectors.md P2, row 4: from any instance back to seed 1. -/
theorem test_construct_default_64 :
    registersAfter (exec .constructDefault { State.resetOf .tinymt64 with engine := withArray64 5 6 }) =
      [1, 0xef3749c1ffd2ccc4, 0x72814062c076e9b8, 0, 0] := by decide
/-- 95_test_vectors.md P1, row 4: RESET answers DONE and rewinds. -/
theorem test_reset_32 :
    registersAfter (exec .reset { State.resetOf .tinymt32 with engine := withArray32 5 6 7 8 }) =
      [1, 0x0cca24d8, 0x11ba5ad5, 0xf2dad045, 0xd95dd7b2] := by decide
theorem test_reset_status : statusAfter (step (presented .tinymt32 0x03 9)) = some 0 := by decide
/-- R89, worked example, and the first §8 vector. -/
theorem test_generate_32 :
    (dataAfter (step (presented .tinymt32 0x04 0)), registersAfter (step (presented .tinymt32 0x04 0))) =
      (some 2545341989, [1, 0x11ba5ad5, 0x7daac1ab, 0xffbdc1c7, 0x850cceb3]) := by decide
/-- The first 64-bit §8 vector, and 95_test_vectors.md section 2.7. -/
theorem test_generate_64 :
    (dataAfter (step (presented .tinymt64 0x04 0)), registersAfter (step (presented .tinymt64 0x04 0))) =
      (some 15503804787016557143, [1, 0x728140623a73f6f8, 0x1d08fa8efe26f725, 0, 0]) := by decide
/-- 95_test_vectors.md section 2.8. -/
theorem test_min_value : dataAfter (step (presented .tinymt64 0x05 3)) = some 0 := by decide
theorem test_max_value_32 : dataAfter (step (presented .tinymt32 0x06 3)) = some 4294967295 := by decide
theorem test_max_value_64 : dataAfter (step (presented .tinymt64 0x06 3)) = some 18446744073709551615 := by decide
theorem test_initial_seed : dataAfter (step (presented .tinymt32 0x07 3)) = some 1 := by decide
theorem test_initial_seed_status : statusAfter (step (presented .tinymt32 0x07 3)) = some 1 := by decide
/-- R100, R103: the fault names the word, the registers stay, FAULTED is set. -/
theorem test_illegal_command : faultOf (step (presented .tinymt32 0x2a 3)) = some (0x2a, true, 1) := by decide
theorem test_illegal_zero : faultOf (step (presented .tinymt64 0x00 3)) = some (0, true, 1) := by decide
/-- 95_test_vectors.md section 2.10. -/
theorem test_rst :
    registersAfter (step { State.resetOf .tinymt32 with engine := withArray32 5 6 7 8, pending := [.rst] }) =
      [1, 0x0cca24d8, 0x11ba5ad5, 0xf2dad045, 0xd95dd7b2] := by decide
/-- The word the host places is the one that runs next: the §8 vector from `State.reset`. -/
theorem test_with_fetch_word : dataAfter (step (State.reset.withFetchWord 8 0x04)) = some 2545341989 := by decide
/-- `State.reset` is the state elaboration leaves (R104, R113). -/
theorem test_power_on : (powerOn 32, powerOn 33) = (some State.reset, none) := by decide

/-! ### The assembler (R58 to R61) -/

theorem test_assemble_construct :
    (assembleLine .tinymt32 ['C', 'O', 'N', 'S', 'T', 'R', 'U', 'C', 'T', ' ', ' ', '1', '2', '_', '3', ' ', ';', 'x']).toOption =
      some (some (.construct 123)) := by decide
theorem test_assemble_hexadecimal :
    (assembleLine .tinymt32 ['C', 'O', 'N', 'S', 'T', 'R', 'U', 'C', 'T', ' ', '0', 'x', '3', '0', '3', '9']).toOption =
      some (some (.construct 12345)) := by decide
theorem test_assemble_missing_operand :
    (assembleLine .tinymt32 ['C', 'O', 'N', 'S', 'T', 'R', 'U', 'C', 'T', ' ']).toOption = none := by decide
theorem test_assemble_operand_refused :
    (assembleLine .tinymt32 ['R', 'E', 'S', 'E', 'T', ' ', '1']).toOption = none := by decide
/-- R59: a negative literal, 2^32 in TinyMT32, an underscore at the end, and a prefix without digits. -/
theorem test_assemble_bad_literals :
    [['-', '1'], ['4', '2', '9', '4', '9', '6', '7', '2', '9', '6'], ['1', '_'], ['0', 'x']].map
        (fun word => (constructWith .tinymt32 [word]).toOption) = [none, none, none, none] := by decide
theorem test_assemble_program :
    (assemble .tinymt32 ['R', 'E', 'S', 'E', 'T', '\n', '\n', ' ', ';', '\n', 'G', 'E', 'N', 'E', 'R', 'A', 'T', 'E']).toOption =
      some [.reset, .generate] := by decide

/-! ### Witnesses: for every statement with hypotheses, inputs that meet all of them together -/

/-- A reset state with the given inputs pending. -/
def waiting (v : Variant) (inputs : List (Input v.width)) : State := (State.resetOf v).issue inputs

/-- Three transactions that construct nothing: GENERATE, an illegal word and RESET. -/
def between32 : List (Transaction 32) := [⟨0x04#8, 0#32⟩, ⟨0x00#8, 1#32⟩, ⟨0x03#8, 2#32⟩]

/-- An engine whose ST is degenerate though its first word is not zero. -/
def degenerate32 : Engine 32 := withArray32 0x80000000 0 0 0

/-- DecodeOfEncodeIsTheCommand, AssembleOfTextIsTheCommand, TheSevenCommandsRaiseNothing: both ends of the range. -/
theorem witness_well_formed :
    (Instr.construct 0).wellFormed .tinymt32 = true ∧ (Instr.construct 0xffffffff).wellFormed .tinymt32 = true ∧
      (Instr.construct 0xffffffffffffffff).wellFormed .tinymt64 = true ∧ Instr.generate.wellFormed .tinymt64 = true := by
  decide

/-- AssembleOfTextIsTheCommand, the clause on a program: one command with an operand and one without. -/
theorem witness_program : ∀ i ∈ [Instr.construct 0xffffffff, .generate], i.wellFormed .tinymt32 = true := by decide

/-- EncodeOfDecodeIsTheTransaction: the first and the last command word. -/
theorem witness_decodes :
    (decode .tinymt32 ⟨0x01#8, 0xffffffff#32⟩).toOption = some (.construct 0xffffffff) ∧
      (decode .tinymt64 ⟨0x07#8, 5#64⟩).toOption = some .initialSeed := by decide

/-- NoTwoRowsMatchOneWord: a word that a row matches. -/
theorem witness_row_matches : (opcodeMap.map fun r => r.matchesWord 0x07#8) =
    [false, false, false, false, false, false, true] := by decide

/-- EveryOtherWordIsIllegal, IllegalCommandFaults, FaultedIsNeverCleared, OnlyIllegalWordsStopTheMachine: the illegal
words next to the legal ones, each as a pending transaction that faults. -/
theorem witness_illegal_pending :
    (waiting .tinymt32 [.command ⟨0x00#8, 7#32⟩]).pending = [.command ⟨0x00#8, 7#32⟩] ∧
      (waiting .tinymt64 [.command ⟨0x08#8, 7#64⟩, .rst]).pending = [.command ⟨0x08#8, 7#64⟩, .rst] ∧
      ¬ Byte.Legal 0x00#8 ∧ ¬ Byte.Legal 0x08#8 ∧
      faultOf (step (waiting .tinymt32 [.command ⟨0x00#8, 7#32⟩])) = some (0x00, true, 1) ∧
      faultOf (step (waiting .tinymt64 [.command ⟨0x08#8, 7#64⟩, .rst])) = some (0x08, true, 1) := by decide

/-- SeedPortIgnoredByOtherCommands: a command word that is not CONSTRUCT's, and an illegal one. -/
theorem witness_not_construct : (0x02#8 : Byte) ≠ 0x01#8 ∧ (0x00#8 : Byte) ≠ 0x01#8 := by decide

/-- OnlyTwoWidthsElaborate: both clauses, at the widths themselves and beside them. -/
theorem witness_widths : (32 = 32 ∨ 32 = 64) ∧ (64 = 32 ∨ 64 = 64) ∧ ¬ (33 = 32 ∨ 33 = 64) ∧ ¬ (63 = 32 ∨ 63 = 64) := by
  decide

/-- AssembledCommandsAreWellFormed: a line and a program that assemble. -/
theorem witness_assembles :
    assembleLine .tinymt64 ['R', 'E', 'S', 'E', 'T'] = .ok (some .reset) ∧
      assemble .tinymt64 ['R', 'E', 'S', 'E', 'T', '\n'] = .ok [.reset] := ⟨rfl, rfl⟩

/-- AssembledCommandsAreWellFormed, the refusals: a tail without an operand and one with an operand, the first literal
past the word with the digits it needs, an operand after the minus sign, and two digits. -/
theorem witness_refused_texts :
    (∀ c ∈ dropComment [' ', ';', '1'], c = ' ') ∧ Mnemonic.reset ≠ .construct ∧ (∃ c ∈ dropComment [' ', '1', ';'], c ≠ ' ') ∧
      2 ^ Variant.tinymt32.width ≤ 0x100000000 ∧ 0x100000000 < 16 ^ 9 ∧ ' ' ∉ ['1'] ∧ ';' ∉ ['1'] ∧
      digitValue 16 '9' ≠ none ∧ digitValue 16 'a' ≠ none :=
  ⟨by simp [dropComment], by decide, ⟨'1', by simp [dropComment]⟩, by decide, by decide, by decide, by decide, by decide, by decide⟩

/-- ProgramIsReadLineByLine: blanks, and lines without a line feed of which one is a command, one blank and one
refused. -/
theorem witness_lines :
    (∀ c ∈ [' ', ' '], c = ' ') ∧ (∀ line ∈ [['R', 'E', 'S', 'E', 'T'], [' '], ['X']], '\n' ∉ line) ∧
      List.Forall₂ (fun line command => assembleLine .tinymt32 line = .ok command)
        [['R', 'E', 'S', 'E', 'T'], [' ']] [some .reset, none] ∧
      assembleLine .tinymt32 ['X'] = .error .unknownMnemonic :=
  ⟨by simp, by simp, .cons rfl (.cons rfl .nil), rfl⟩

/-- ResetValues, RstConstructsSeedOne, WaysToReseed: `rst` is next. -/
theorem witness_rst_pending : (waiting .tinymt64 [.rst]).pending = .rst :: [] := by decide

/-- FirstWordAfterRst: an illegal word, RESET and INITIAL_SEED between, and the first and the last legal word. -/
theorem witness_before_generate :
    (∀ t ∈ [(⟨0x00#8, 9#32⟩ : Transaction 32), ⟨0x03#8, 9#32⟩, ⟨0x07#8, 9#32⟩], ConstructsNothing t ∧ t.cmdIn ≠ 0x04#8) ∧
      Byte.Legal 0x01#8 ∧ Byte.Legal 0x07#8 := by decide

/-- The registers after reset satisfy the invariant, whatever is pending. -/
theorem waiting_inv (inputs : List (Input 32)) : (waiting .tinymt32 inputs).Inv where
  constants := ⟨rfl, rfl, rfl⟩
  spare := trivial
  live := fun h => absurd h.1 (by decide : ¬ 0x0cca24d8#32 &&& mask32 = 0)

/-- EveryStepKeepsTheInvariant, the clause on a next state. -/
theorem witness_invariant_next :
    (waiting .tinymt32 [.rst]).Inv ∧ ∃ t, step (waiting .tinymt32 [.rst]) = .next t := ⟨waiting_inv _, _, rfl⟩

/-- EveryStepKeepsTheInvariant, the clause on a fault. -/
theorem witness_invariant_fault :
    (waiting .tinymt32 [.command ⟨0x00#8, 7#32⟩]).Inv ∧
      faultOf (step (waiting .tinymt32 [.command ⟨0x00#8, 7#32⟩])) = some (0x00, true, 1) :=
  ⟨waiting_inv _, by decide⟩

/-- SeedWrittenOnlyByConstruction: a step that changes SEED, by a command and by `rst`. -/
theorem witness_seed_changes :
    (hardwareStep (presented .tinymt32 0x01 0x12345678)).engine.seed.toNat ≠
        (presented .tinymt32 0x01 0x12345678).engine.seed.toNat ∧
      (hardwareStep { waiting .tinymt32 [.rst] with
        engine := constructEngine .tinymt32 (resetEngine .tinymt32) 9#32 }).engine.seed.toNat ≠ 9 := by decide

/-- ConstructSeedsANewInstance and ConstructRefusesALargerLiteral: the ends of the range, and the first value past it. -/
theorem witness_seed_range :
    0 < 2 ^ Variant.tinymt32.width ∧ 0xffffffff < 2 ^ Variant.tinymt32.width ∧
      ¬ 0x100000000 < 2 ^ Variant.tinymt32.width ∧ ¬ 0x10000000000000000 < 2 ^ Variant.tinymt64.width := by decide

/-- ResetRestoresTheConstructedState, InitialSeedSurvivesResetAndGenerate: the three ways to construct, and commands
that construct nothing between. -/
theorem witness_constructs :
    ConstructsWith 5#32 (.command ⟨0x01#8, 5#32⟩) ∧ ConstructsWith 1#32 (.command ⟨0x02#8, 5#32⟩) ∧
      ConstructsWith 1#32 .rst ∧ ∀ t ∈ between32, ConstructsNothing t :=
  ⟨.inl ⟨rfl, rfl⟩, .inr ⟨rfl, rfl⟩, rfl, by decide⟩

/-- KthGenerateAfterConstruct, EveryScheduleAdvancesAlike: commands that reseed nothing. -/
theorem witness_reseeds_nothing : ∀ t ∈ between32.take 2 ++ [], ReseedsNothing t := by decide

/-- NextState32Recurrence: a state of each clause (95_test_vectors.md section 2.3). -/
theorem witness_bit0_of_y :
    ((nextState .tinymt32 (withArray32 1 0 0 0)).st.e3.getLsbD 0,
      (nextState .tinymt32 (withArray32 0 0 0 0)).st.e3.getLsbD 0) = (true, false) := by decide

/-- NextState64Recurrence: a word of each clause. -/
theorem witness_bit0_of_x :
    ((scramble64 1#64).getLsbD 0, (scramble64 0#64).getLsbD 0) = (true, false) := by decide

/-- NextStateReadsAndWrites, ExtractIgnores: two engines that differ only in what is not read. -/
theorem witness_unread_registers :
    withArray32 1 2 0x3ff 4 ≠ withArray32 1 5 0x301 4 ∧
      (withArray32 1 2 0x3ff 4).st.e2 &&& 0xffffff00#32 = (withArray32 1 5 0x301 4).st.e2 &&& 0xffffff00#32 ∧
      { withArray32 1 2 3 4 with seed := 9#32, tmat := 8#32 } ≠ withArray32 1 2 3 4 ∧
      ({ withArray32 1 2 3 4 with seed := 9#32, tmat := 8#32 } : Engine 32).st = (withArray32 1 2 3 4).st := by decide

/-- ExtractIgnores, the TinyMT64 clause. -/
theorem witness_unread_entries :
    ({ withArray64 1 2 with st := ⟨1, 2, 3, 4⟩ } : Engine 64) ≠ withArray64 1 2 ∧
      ({ withArray64 1 2 with st := ⟨1, 2, 3, 4⟩ } : Engine 64).tmat = (withArray64 1 2).tmat := by decide

/-- DegenerateOnlyFromDegenerate: a degenerate state in each variant. -/
theorem witness_degenerate :
    Engine.Degenerate .tinymt32 degenerate32 ∧ Engine.Degenerate .tinymt64 (withArray64 0x8000000000000000 0) :=
  ⟨⟨by decide, rfl, rfl, rfl⟩, by decide, rfl⟩

/-- SameSeedSameSequence: CONSTRUCT 1 beside CONSTRUCT_DEFAULT, and two lists of as many ignored operands. -/
theorem witness_same_seed :
    ConstructsWith 1#32 (.command ⟨0x01#8, 1#32⟩) ∧ ConstructsWith 1#32 (.command ⟨0x02#8, 9#32⟩) ∧
      [1#32, 2#32].length = 2 ∧ [3#32, 4#32].length = 2 :=
  ⟨.inl ⟨rfl, rfl⟩, .inr ⟨rfl, rfl⟩, rfl, rfl⟩

/-- IdempotencyByCommand: an accessor, and registers that hold the constant table. -/
theorem witness_table_constants :
    Instr.initialSeed ∈ [Instr.minValue, .maxValue, .initialSeed] ∧
      Engine.TableConstants .tinymt64 (resetEngine .tinymt64) := ⟨by decide, rfl, rfl, rfl⟩

/-- HardwareGoesOnAfterIllegal: an illegal word and a legal one. -/
theorem witness_illegal_then_legal :
    ¬ Byte.Legal (⟨0x2a#8, 0#32⟩ : Transaction 32).cmdIn ∧ Byte.Legal (⟨0x04#8, 0#32⟩ : Transaction 32).cmdIn := by decide

/-- StepRunsTheDecodedCommand: a pending transaction that decodes. -/
theorem witness_step_decodes :
    (waiting .tinymt32 [.command ⟨0x04#8, 3#32⟩]).pending = .command ⟨0x04#8, 3#32⟩ :: [] ∧
      decode .tinymt32 ⟨0x04#8, 3#32⟩ = .ok .generate := ⟨rfl, rfl⟩

/-- IdleHoldsTheRegisters. -/
theorem witness_idle : (State.resetOf .tinymt64).pending = [] := rfl

/-- EveryRunReachesItsEnd: a safe state with legal inputs pending, `rst` among them. -/
theorem witness_legal_run :
    (waiting .tinymt32 [.rst, .command ⟨0x01#8, 5#32⟩, .command ⟨0x07#8, 0#32⟩]).Safe ∧
      ∀ input ∈ (waiting .tinymt32 [.rst, .command ⟨0x01#8, 5#32⟩, .command ⟨0x07#8, 0#32⟩]).pending,
        input.Legal := by
  refine ⟨rfl, ?_⟩
  show ∀ input ∈ ([.rst, .command ⟨0x01#8, 5#32⟩, .command ⟨0x07#8, 0#32⟩] : List (Input 32)), input.Legal
  simp [Input.Legal]
  decide

/-- EnginesShareNothing: two engines of one system. -/
theorem witness_two_engines :
    (0 : Nat) ≠ 1 ∧ (System.mk [State.resetOf .tinymt32, State.resetOf .tinymt64]).engines.length = 2 := by decide

/-- EveryScheduleAdvancesAlike: a schedule in which the second issuer comes between. -/
theorem witness_schedule : Interleaving [1, 2] [3] [1, 3, 2] := .left 1 (.right 3 (.left 2 .nil))

end Sys2Proof.Tests
end

/-! The proofs of 10_state.md R33 and R35: what a construction leaves of the old registers, and that FAULTED and the
responses before have no effect on what a run does. -/

namespace Sys2Proof.Machine

/-! ### R33: a construction leaves nothing of the old registers -/

/-- The registers after a construction are a function of the seed alone (R72). -/
theorem constructEngine_forgets (v : Variant) (e e' : Engine v.width) (x : BitVec v.width) :
    constructEngine v e x = constructEngine v e' x := by
  cases v <;> rfl

/-- Constructing with seed 1 produces R33's table in any engine. -/
theorem constructEngine_defaultSeed (v : Variant) (e : Engine v.width) :
    constructEngine v e (defaultSeed v.width) = resetEngine v := by
  rw [constructEngine_forgets v e (resetEngine v)]
  cases v <;> decide

/-- CONSTRUCT_DEFAULT puts the registers at R33's table and answers DONE. -/
theorem exec_constructDefault (s : State) :
    exec .constructDefault s = .next (s.complete (resetEngine s.variant) .done) := by
  rw [← constructEngine_defaultSeed s.variant s.engine]
  rfl

/-- `rst` puts the registers at R33's table. -/
theorem applyRst_eq (s : State) : applyRst s = { s with engine := resetEngine s.variant } := by
  rw [applyRst, constructEngine_defaultSeed]

/-- A step with `rst` next asserts it. -/
theorem step_rst {s : State} {rest : List (Input s.variant.width)} (h : s.pending = .rst :: rest) :
    step s = .next (applyRst { s with pending := rest }) := by
  simp [step, fetch, h]

/-- Settles O12: both reset states are R33's literals, and a construction with seed 1 forgets the old registers. -/
theorem resetValues : Obligations.ResetValues := by
  refine ⟨rfl, rfl, State.resetOf_faulted, exec_constructDefault, fun s rest hp => ?_⟩
  rw [step_rst hp, applyRst_eq]
  rfl

/-! ### R35: the registers and the inputs determine the responses -/

/-- What a decoded command writes and answers does not depend on FAULTED, the pending inputs or earlier responses. -/
theorem exec_instr_from_registers (m : Mnemonic) (v : Variant) (e : Engine v.width) (x : BitVec v.width) :
    ∃ e₁ a, ∀ f p r, exec (m.instr x.toNat) { variant := v, engine := e, faulted := f, pending := p, responses := r } =
      .next { variant := v, engine := e₁, faulted := f, pending := p, responses := r ++ [a] } := by
  cases m with
  | construct =>
    refine ⟨constructEngine v e x, .done, fun f p r => ?_⟩
    simp [exec, Mnemonic.instr, execConstruct, seedOperand_of_lt v x.isLt, State.complete]
  | constructDefault => exact ⟨constructEngine v e (defaultSeed v.width), .done, fun _ _ _ => rfl⟩
  | reset => exact ⟨rewindEngine v e, .done, fun _ _ _ => rfl⟩
  | generate => exact ⟨nextState v e, .data (extract v (nextState v e)), fun _ _ _ => rfl⟩
  | minValue => exact ⟨e, .data 0#_, fun _ _ _ => rfl⟩
  | maxValue => exact ⟨e, .data (BitVec.ofNat _ (2 ^ v.width - 1)), fun _ _ _ => rfl⟩
  | initialSeed => exact ⟨e, .data e.seed, fun _ _ _ => rfl⟩

/-- From registers `e` with `p` pending, `run` comes to registers `e₁` with `p₁` pending and answers `new`, whatever
FAULTED and the responses before are. -/
def LeadsTo {v : Variant} (run : State → State) (e : Engine v.width) (p : List (Input v.width)) (e₁ : Engine v.width)
    (p₁ : List (Input v.width)) (new : List (Response v.width)) : Prop :=
  ∀ f r, ∃ f₁, run { variant := v, engine := e, faulted := f, pending := p, responses := r } =
    { variant := v, engine := e₁, faulted := f₁, pending := p₁, responses := r ++ new }

/-- One step of the hardware is determined by the registers and the pending inputs. -/
theorem hardwareStep_leadsTo {v : Variant} (e : Engine v.width) (p : List (Input v.width)) :
    ∃ e₁ p₁ new, LeadsTo hardwareStep e p e₁ p₁ new := by
  match p with
  | [] => exact ⟨e, [], [], fun f r => ⟨f, by simp [hardwareStep, step, fetch, goOnFrom]⟩⟩
  | .rst :: rest =>
    refine ⟨resetEngine v, rest, [], fun f r => ⟨f, ?_⟩⟩
    rw [hardwareStep_of_next (step_rst rfl), applyRst_eq, List.append_nil]
  | .command t :: rest =>
    obtain ⟨m, -, hd⟩ | ⟨-, hd⟩ := decode_cases v t
    · obtain ⟨e₁, a, hx⟩ := exec_instr_from_registers m v e t.seedIn
      exact ⟨e₁, rest, [a], fun f r => ⟨f, by simp [hardwareStep, step, fetch, hd, hx, goOnFrom]⟩⟩
    · exact ⟨e, rest, [.illegal], fun f r =>
        ⟨true, by simp [hardwareStep, step, fetch, hd, goOnFrom, raiseIllegalCommand]⟩⟩

/-- A run of the hardware is determined by the registers and the pending inputs. -/
theorem hardwareRun_leadsTo {v : Variant} (n : Nat) (e : Engine v.width) (p : List (Input v.width)) :
    ∃ e₁ p₁ new, LeadsTo (hardwareRun n) e p e₁ p₁ new := by
  induction n generalizing e p with
  | zero => exact ⟨e, p, [], fun f r => ⟨f, by rw [List.append_nil]; rfl⟩⟩
  | succ n ih =>
    obtain ⟨e₁, p₁, new, hstep⟩ := hardwareStep_leadsTo e p
    obtain ⟨e₂, p₂, more, hrun⟩ := ih e₁ p₁
    refine ⟨e₂, p₂, new ++ more, fun f r => ?_⟩
    obtain ⟨f₁, h₁⟩ := hstep f r
    obtain ⟨f₂, h₂⟩ := hrun f₁ (r ++ new)
    exact ⟨f₂, by rw [hardwareRun_succ, h₁, h₂, List.append_assoc]⟩

/-- Settles O20, by induction on the number of steps: both runs are the one the registers and the inputs determine. -/
theorem registersDetermineResponses : Obligations.RegistersDetermineResponses := by
  intro v n e p f f' r r'
  obtain ⟨e₁, p₁, new, h⟩ := hardwareRun_leadsTo n e p
  obtain ⟨f₁, h₁⟩ := h f r
  obtain ⟨f₁', h₁'⟩ := h f' r'
  exact ⟨e₁, p₁, f₁, f₁', new, h₁, h₁'⟩

end Sys2Proof.Machine

/-! The proofs of 20_memory.md R44 and R47: what each command does when it is performed twice in a row, and that the
engines of a system share nothing. -/

namespace Sys2Proof.Machine

/-! ### R44: each command performed twice -/

/-- Performed on registers `e`, command `i` leaves registers `e₁` and answers `a`, and keeps FAULTED and the pending
inputs, whatever FAULTED, the pending inputs and the responses before are. -/
def CompletesWith (i : Instr) {v : Variant} (e e₁ : Engine v.width) (a : Response v.width) : Prop :=
  ∀ f p r, exec i { variant := v, engine := e, faulted := f, pending := p, responses := r } =
    .next { variant := v, engine := e₁, faulted := f, pending := p, responses := r ++ [a] }

/-- The second of two commands in a row: its registers, and both answers in order. -/
theorem CompletesWith.after {i : Instr} {v : Variant} {e₁ e₂ : Engine v.width} {b : Response v.width}
    (h : CompletesWith i e₁ e₂ b) (a : Response v.width) (f : Bool) (p : List (Input v.width))
    (r : List (Response v.width)) :
    exec i { variant := v, engine := e₁, faulted := f, pending := p, responses := r ++ [a] } =
      .next { variant := v, engine := e₂, faulted := f, pending := p, responses := r ++ [a, b] } := by
  rw [h, List.append_assoc, List.singleton_append]

section Registers

variable (v : Variant) (e : Engine v.width)

/-- CONSTRUCT with a seed inside the word constructs with that seed and answers DONE (R72). -/
theorem construct_completesWith (x : BitVec v.width) :
    CompletesWith (.construct x.toNat) e (constructEngine v e x) .done := fun f p r => by
  simp [exec, execConstruct, seedOperand_of_lt v x.isLt, State.complete]

/-- RESET rewinds and answers DONE (R74). -/
theorem reset_completesWith : CompletesWith .reset e (rewindEngine v e) .done := fun _ _ _ => rfl

/-- GENERATE advances and answers the word extracted from the advanced state (R89). -/
theorem generate_completesWith :
    CompletesWith .generate e (nextState v e) (.data (extract v (nextState v e))) := fun _ _ _ => rfl

/-- An accessor writes no register, and what it answers is a function of the registers (R91 to R93). -/
theorem accessor_completesWith {i : Instr} (hi : i ∈ [Instr.minValue, .maxValue, .initialSeed]) :
    ∃ a, CompletesWith i e e a := by
  simp only [List.mem_cons, List.not_mem_nil, or_false] at hi
  obtain rfl | rfl | rfl := hi
  · exact ⟨.data 0#_, fun _ _ _ => rfl⟩
  · exact ⟨.data (BitVec.ofNat _ (2 ^ v.width - 1)), fun _ _ _ => rfl⟩
  · exact ⟨.data e.seed, fun _ _ _ => rfl⟩

/-- A second CONSTRUCT with the same seed changes no register. -/
theorem constructEngine_idem (x : BitVec v.width) :
    constructEngine v (constructEngine v e x) x = constructEngine v e x := constructEngine_forgets v _ e x

/-- A second RESET changes no register: rewinding is constructing with the seed held, which it keeps. -/
theorem rewindEngine_idem : rewindEngine v (rewindEngine v e) = rewindEngine v e :=
  calc rewindEngine v (rewindEngine v e)
    _ = constructEngine v (rewindEngine v e) (rewindEngine v e).seed := rfl
    _ = constructEngine v (rewindEngine v e) e.seed := by rw [rewindEngine_seed]
    _ = constructEngine v e e.seed := constructEngine_forgets v _ e e.seed
    _ = rewindEngine v e := rfl

variable {v e} in
/-- RESET rewrites the constants: over registers that hold the constant table, with their own values (R20 to R22). -/
theorem rewindEngine_constants (h : e.TableConstants) :
    (rewindEngine v e).mat1 = e.mat1 ∧ (rewindEngine v e).mat2 = e.mat2 ∧ (rewindEngine v e).tmat = e.tmat := by
  obtain ⟨hmat1, hmat2, htmat⟩ := h
  simp [rewindEngine, hmat1, hmat2, htmat]

/-- The first two advances from the registers of `rst` each change ST, and their extracted words differ. -/
theorem nextState_resetEngine_twice :
    (nextState v (resetEngine v)).st ≠ (resetEngine v).st ∧
      (nextState v (nextState v (resetEngine v))).st ≠ (nextState v (resetEngine v)).st ∧
      extract v (nextState v (resetEngine v)) ≠ extract v (nextState v (nextState v (resetEngine v))) := by
  cases v <;> decide

end Registers

/-- Settles O49, a row of R44's table at a time: an accessor's answer depends on the registers alone, a construction
forgets the old registers, a rewind keeps SEED, and two GENERATEs after `rst` differ. -/
theorem idempotencyByCommand : Obligations.IdempotencyByCommand := by
  refine ⟨?accessor, ?reset, ?construct, ?generate, ?generateTwice⟩
  case accessor =>
    rintro ⟨v, e, f, p, r⟩ i hi
    obtain ⟨a, h⟩ := accessor_completesWith v e hi
    exact ⟨a, h f p r, h.after a f p r⟩
  case reset =>
    rintro ⟨v, e, f, p, r⟩
    have again := reset_completesWith v (rewindEngine v e)
    rw [rewindEngine_idem] at again
    exact ⟨_, reset_completesWith v e f p r, again.after .done f p r, rewindEngine_constants⟩
  case construct =>
    rintro ⟨v, e, f, p, r⟩ x
    have again := construct_completesWith v (constructEngine v e x) x
    rw [constructEngine_idem] at again
    exact ⟨_, construct_completesWith v e x f p r, again.after .done f p r⟩
  case generate =>
    rintro ⟨v, e, f, p, r⟩
    exact ⟨_, generate_completesWith v e f p r⟩
  case generateTwice =>
    intro v
    obtain ⟨hst₁, hst₂, hx⟩ := nextState_resetEngine_twice v
    exact ⟨_, _, _, _, generate_completesWith v _ _ _ _, generate_completesWith v _ _ _ _, hst₁, hst₂, hx⟩

/-! ### R47: the engines of a system -/

/-- Engine `k` after a step of engine `j`: its own step when it is that engine, and otherwise as it was. -/
theorem System.stepAt_engines_getElem? (m : System) (j k : Nat) :
    (m.stepAt j).engines[k]? = if j = k then m.engines[k]?.map hardwareStep else m.engines[k]? := by
  split_ifs with h <;> simp [System.stepAt, h]

/-- Two systems are equal when they have the same engine at every place. -/
theorem System.ext_getElem? {m m' : System} (h : ∀ i : Nat, m.engines[i]? = m'.engines[i]?) : m = m' := by
  obtain ⟨es⟩ := m
  obtain ⟨es'⟩ := m'
  exact congrArg System.mk (List.ext_getElem? h)

/-- Steps of two engines that differ commute: each place is written by at most one of them. -/
theorem System.stepAt_comm (m : System) {j k : Nat} (hjk : j ≠ k) :
    (m.stepAt j).stepAt k = (m.stepAt k).stepAt j := by
  refine System.ext_getElem? fun i => ?_
  simp only [System.stepAt_engines_getElem?]
  by_cases hj : j = i
  · have hk : k ≠ i := fun hk => hjk (hj.trans hk.symm)
    simp only [hj, hk, if_true, if_false]
  · simp only [hj, if_false]

/-- Settles O58: a step writes one place of the list of engines. -/
theorem enginesShareNothing : Obligations.EnginesShareNothing := by
  intro m j k hjk
  refine ⟨?_, ?_, m.stepAt_comm hjk⟩
  · rw [System.stepAt_engines_getElem?, if_neg hjk]
  · rw [System.stepAt_engines_getElem?, if_pos rfl]

end Sys2Proof.Machine

/-! The proofs of 30_encoding.md R55 and R57: a word matches the one row whose pattern it is, and a word that matches no
row is illegal, changes no register and is answered ILLEGAL. -/

namespace Sys2Proof

/-! ### R57: the opcode map is unambiguous -/

/-- Every row decodes the word as a whole (R51). -/
theorem opcodeMap_mask : ∀ r ∈ opcodeMap, r.mask = 0xff#8 := by decide

/-- The rows differ in their patterns (R54). -/
theorem opcodeMap_pattern_injective : ∀ r₁ ∈ opcodeMap, ∀ r₂ ∈ opcodeMap, r₁.pattern = r₂.pattern → r₁ = r₂ := by
  decide

/-- A row of the map matches exactly one word, its pattern. -/
theorem OpcodeRow.matchesWord_iff {r : OpcodeRow} (hr : r ∈ opcodeMap) (c : Byte) :
    r.matchesWord c = true ↔ c = r.pattern := by
  have hmask : c &&& 0xff#8 = c := BitVec.and_allOnes
  rw [OpcodeRow.matchesWord, opcodeMap_mask r hr, hmask, beq_iff_eq]

/-- Settles O4: the decoder splits on what the word selects, and two rows that match one word share their pattern. -/
theorem noTwoRowsMatchOneWord : Obligations.NoTwoRowsMatchOneWord := by
  refine ⟨fun v t => ?_, fun c r₁ hr₁ r₂ hr₂ h₁ h₂ => ?_⟩
  · obtain ⟨m, hm, hd⟩ | ⟨-, hd⟩ := decode_cases v t
    · have hsel : selectMnemonic t.cmdIn = some m := (selectMnemonic_eq_some_iff _ _).2 hm
      exact .inl ⟨m, hsel, fun m' hm' => Option.some.inj (hm'.symm.trans hsel), hd⟩
    · exact .inr hd
  · have hc₁ : c = r₁.pattern := (OpcodeRow.matchesWord_iff hr₁ c).1 h₁
    have hc₂ : c = r₂.pattern := (OpcodeRow.matchesWord_iff hr₂ c).1 h₂
    exact opcodeMap_pattern_injective r₁ hr₁ r₂ hr₂ (hc₁.symm.trans hc₂)

end Sys2Proof

namespace Sys2Proof.Machine

/-! ### R55: the illegal words -/

/-- A transaction with an illegal word is rejected with its word. -/
theorem decode_of_not_legal {v : Variant} {t : Transaction v.width} (h : ¬ Byte.Legal t.cmdIn) :
    decode v t = .error (.illegal t.cmdIn) := by
  have hn : selectMnemonic t.cmdIn = none := (selectMnemonic_eq_none_iff t.cmdIn).2 h
  rw [decode, hn]

/-- A transaction is rejected exactly when its word is illegal. -/
theorem decode_rejects_iff (v : Variant) (t : Transaction v.width) :
    (∃ c, decode v t = .error (.illegal c)) ↔ ¬ Byte.Legal t.cmdIn := by
  refine ⟨fun ⟨c, hc⟩ => ?_, fun h => ⟨t.cmdIn, decode_of_not_legal h⟩⟩
  obtain ⟨m, -, hd⟩ | ⟨hn, -⟩ := decode_cases v t
  · exact absurd (hd.symm.trans hc) nofun
  · exact (selectMnemonic_eq_none_iff t.cmdIn).1 hn

/-- A step on an illegal word faults; the fault names the word and leaves every register as it was (R100). -/
theorem step_of_not_legal {s : State} {t : Transaction s.variant.width} {rest : List (Input s.variant.width)}
    (hp : s.pending = .command t :: rest) (h : ¬ Byte.Legal t.cmdIn) :
    step s = .fault (.illegalCommand t.cmdIn
      { s with pending := rest, faulted := true, responses := s.responses ++ [.illegal] }) := by
  simp [step, fetch, hp, decode_of_not_legal h, raiseIllegalCommand]

/-- The hardware goes on from the state the fault leaves (R107). -/
theorem hardwareStep_of_not_legal {s : State} {t : Transaction s.variant.width} {rest : List (Input s.variant.width)}
    (hp : s.pending = .command t :: rest) (h : ¬ Byte.Legal t.cmdIn) :
    hardwareStep s = { s with pending := rest, faulted := true, responses := s.responses ++ [.illegal] } := by
  rw [hardwareStep, step_of_not_legal hp h, goOnFrom]

/-- A word from 0x08 on is illegal. -/
theorem Byte.not_legal_ofNat {n : Nat} (hlow : 8 ≤ n) (hbyte : n < 256) : ¬ Byte.Legal (BitVec.ofNat 8 n) := by
  rw [Byte.Legal, BitVec.toNat_ofNat, Nat.mod_eq_of_lt hbyte]
  omega

/-- Of the 256 words 249 are illegal: 0x00 among the first eight, and the 248 from 0x08 on. -/
theorem illegalWords_length :
    ((List.range 256).filter fun n => !decide (Byte.Legal (BitVec.ofNat 8 n))).length = 249 := by
  have hlow : ((List.range 8).filter fun n => !decide (Byte.Legal (BitVec.ofNat 8 n))).length = 1 := by decide
  have hhigh : ∀ n ∈ (List.range 248).map (8 + ·), (!decide (Byte.Legal (BitVec.ofNat 8 n))) = true := by
    intro n hn
    obtain ⟨k, hk, rfl⟩ := List.mem_map.1 hn
    have hk : k < 248 := List.mem_range.1 hk
    rw [decide_eq_false (Byte.not_legal_ofNat (n := 8 + k) (by omega) (by omega)), Bool.not_false]
  rw [List.range_add (n := 8) (m := 248), List.filter_append, List.length_append, hlow, List.filter_eq_self.2 hhigh,
    List.length_map, List.length_range]

/-- Settles O5: the count by splitting the words at 0x08, the rejections by what the decoder answers, and the effect of
an illegal word by the state its fault leaves. -/
theorem everyOtherWordIsIllegal : Obligations.EveryOtherWordIsIllegal :=
  ⟨illegalWords_length, decode_rejects_iff, fun _ _ _ hp h => ⟨true, hardwareStep_of_not_legal hp h⟩⟩

end Sys2Proof.Machine

/-! The proofs of 40_seeding.md: the seeding rules written out, and what CONSTRUCT, CONSTRUCT_DEFAULT and RESET leave.
RESET is a construction with the seed held, and only a construction changes the seed held. -/

namespace Sys2Proof

/-- The opcode of a mnemonic decodes to its command, CONSTRUCT's operand being `seed_in` (R53, R54). -/
theorem decode_opcode (v : Variant) (m : Mnemonic) (x : BitVec v.width) :
    decode v ⟨m.opcode, x⟩ = .ok (m.instr x.toNat) := by
  have hm : selectMnemonic m.opcode = some m := (selectMnemonic_eq_some_iff _ _).2 rfl
  simp [decode, hm]

end Sys2Proof

namespace Sys2Proof.Machine

/-! ### R75: RESET after commands that construct nothing -/

/-- RESET constructs with the seed held (R74), so from registers that hold `x` it leaves what any construction with `x`
leaves. -/
theorem rewindEngine_of_seed {v : Variant} {e : Engine v.width} {x : BitVec v.width} (h : e.seed = x)
    (e' : Engine v.width) : rewindEngine v e = constructEngine v e' x := by
  subst h
  exact constructEngine_forgets v e e' e.seed

/-- A command that constructs nothing keeps SEED (R16). -/
theorem CommandEffect.seed_eq {v : Variant} {e e₁ : Engine v.width} {m : Mnemonic} (h : CommandEffect v e m e₁)
    (hconstruct : m ≠ .construct) (hdefault : m ≠ .constructDefault) : e₁.seed = e.seed := by
  cases h with
  | construct => exact absurd rfl hconstruct
  | constructDefault => exact absurd rfl hdefault
  | reset => exact rewindEngine_seed v e
  | generate => exact nextState_seed v e
  | minValue | maxValue | initialSeed => rfl

section Runs

variable {v : Variant} (e : Engine v.width) (f : Bool) (p : List (Input v.width)) (r : List (Response v.width))

/-- A step on a transaction that constructs nothing, an illegal one too, answers once and keeps SEED. -/
theorem hardwareStep_constructsNothing {t : Transaction v.width} (ht : ConstructsNothing t) :
    ∃ e₁ f₁ a, hardwareStep { variant := v, engine := e, faulted := f, pending := .command t :: p, responses := r } =
        { variant := v, engine := e₁, faulted := f₁, pending := p, responses := r ++ [a] } ∧ e₁.seed = e.seed := by
  obtain ⟨hp, -⟩ | ⟨_, hp, -⟩ | ⟨_, _, m, e₁, a, hp, hm, he, hs⟩ | ⟨_, _, hp, -, hs⟩ := hardwareStep_cases
    { variant := v, engine := e, faulted := f, pending := .command t :: p, responses := r }
  · cases hp
  · cases hp
  · cases hp
    obtain ⟨hconstruct, hdefault⟩ := ht
    exact ⟨e₁, f, a, hs, he.seed_eq (by rintro rfl; exact hconstruct hm) (by rintro rfl; exact hdefault hm)⟩
  · cases hp
    exact ⟨e, true, .illegal, hs, rfl⟩

/-- A run over transactions that construct nothing answers each once and keeps SEED. -/
theorem hardwareRun_constructsNothing {ts : List (Transaction v.width)} (hts : ∀ t ∈ ts, ConstructsNothing t) :
    ∃ e₁ f₁ new, hardwareRun ts.length
          { variant := v, engine := e, faulted := f, pending := ts.map .command ++ p, responses := r } =
        { variant := v, engine := e₁, faulted := f₁, pending := p, responses := r ++ new } ∧
      new.length = ts.length ∧ e₁.seed = e.seed := by
  induction ts generalizing e f r with
  | nil => exact ⟨e, f, [], by rw [List.append_nil]; rfl, rfl, rfl⟩
  | cons t ts ih =>
    obtain ⟨ht, hts⟩ := List.forall_mem_cons.1 hts
    obtain ⟨e₁, f₁, a, hstep, hseed₁⟩ := hardwareStep_constructsNothing e f (ts.map .command ++ p) r ht
    obtain ⟨e₂, f₂, new, hrun, hlen, hseed₂⟩ := ih e₁ f₁ (r ++ [a]) hts
    refine ⟨e₂, f₂, a :: new, ?_, by rw [List.length_cons, List.length_cons, hlen], hseed₂.trans hseed₁⟩
    rw [List.length_cons, hardwareRun_succ, List.map_cons, List.cons_append, hstep, hrun, List.append_assoc,
      List.singleton_append]

/-- A step on RESET's word rewinds the registers and answers DONE, whatever is on `seed_in`. -/
theorem hardwareStep_reset (y : BitVec v.width) :
    hardwareStep
        { variant := v, engine := e, faulted := f, pending := .command ⟨0x03#8, y⟩ :: p, responses := r } =
      { variant := v, engine := rewindEngine v e, faulted := f, pending := p, responses := r ++ [.done] } := by
  have hd : decode v ⟨0x03#8, y⟩ = .ok .reset := decode_opcode v .reset y
  exact hardwareStep_of_next (by simp [step, fetch, hd, reset_completesWith v e f p r])

end Runs

/-- Settles O28: the commands between keep SEED at `x`, and RESET then leaves what a construction with `x` leaves. -/
theorem resetRestoresTheConstructedState : Obligations.ResetRestoresTheConstructedState := by
  intro v e f r x y construction ts rest hc hts after s r₁
  have hconstruct : hardwareStep s =
      { variant := v, engine := constructEngine v e x, faulted := f, pending := after, responses := r₁ } :=
    hardwareStep_construction hc e f after r
  obtain ⟨e₁, f₁, new, hbetween, hlen, hseed⟩ := hardwareRun_constructsNothing (constructEngine v e x) f
    (.command ⟨0x03#8, y⟩ :: rest) r₁ hts
  have hrewind : rewindEngine v e₁ = constructEngine v e x :=
    rewindEngine_of_seed (hseed.trans (constructEngine_seed v e x)) e
  refine ⟨constructEngine v e x, f₁, new, hconstruct, ?_, hlen, constructEngine_seed v e x⟩
  rw [hardwareRun_succ, hconstruct, hardwareRun_add, hbetween, hardwareRun_succ, hardwareStep_reset, hrewind]
  rfl

/-! ### R64 to R70: the seeding rules, written out -/

/-- Settles O21: the array after each pass of SeedMix32's loop, one line a pass; the warm-up is eight advances of what
the loop leaves. -/
theorem seed32IsSevenPassesAndEightAdvances : Obligations.Seed32IsSevenPassesAndEightAdvances := by
  intro e s mix a1 a2 a3 b0 b1 b2 b3 mixed
  have hpasses : mixingPasses.foldl mixPass32 (loadArray32 s) = ⟨b0, b1, b2, b3⟩ := calc
    _ = [2, 3, 4, 5, 6, 7].foldl mixPass32 ⟨s, a1, mat2Of .tinymt32, tmatOf .tinymt32⟩ := rfl
    _ = [3, 4, 5, 6, 7].foldl mixPass32 ⟨s, a1, a2, tmatOf .tinymt32⟩ := rfl
    _ = [4, 5, 6, 7].foldl mixPass32 ⟨s, a1, a2, a3⟩ := rfl
    _ = [5, 6, 7].foldl mixPass32 ⟨b0, a1, a2, a3⟩ := rfl
    _ = [6, 7].foldl mixPass32 ⟨b0, b1, a2, a3⟩ := rfl
    _ = [7].foldl mixPass32 ⟨b0, b1, b2, a3⟩ := rfl
    _ = ⟨b0, b1, b2, b3⟩ := rfl
  have hmix : seedMix32 e s = mixed := by
    rw [seedMix32, hpasses]
    rfl
  have hwarmUp : seedW .tinymt32 e s = nextState32^[8] (seedMix32 e s) := rfl
  refine ⟨hmix, ?_⟩
  rw [hwarmUp, hmix]
  rfl

/-- Settles O22: the array after each pass of SeedMix64's loop, one line a pass; Seed64 ends there. -/
theorem seed64IsMixingAlone : Obligations.Seed64IsMixingAlone := by
  intro e s mix a0 b1 c0 c1 d0 d1 f0 f1
  have hpasses : mixingPasses.foldl mixPass64 (loadArray64 s) = ⟨f0, f1, 0#64, 0#64⟩ := calc
    _ = [2, 3, 4, 5, 6, 7].foldl mixPass64 ⟨a0, b1, 0#64, 0#64⟩ := rfl
    _ = [3, 4, 5, 6, 7].foldl mixPass64 ⟨c0, b1, 0#64, 0#64⟩ := rfl
    _ = [4, 5, 6, 7].foldl mixPass64 ⟨c0, c1, 0#64, 0#64⟩ := rfl
    _ = [5, 6, 7].foldl mixPass64 ⟨d0, c1, 0#64, 0#64⟩ := rfl
    _ = [6, 7].foldl mixPass64 ⟨d0, d1, 0#64, 0#64⟩ := rfl
    _ = [7].foldl mixPass64 ⟨f0, d1, 0#64, 0#64⟩ := rfl
    _ = ⟨f0, f1, 0#64, 0#64⟩ := rfl
  have hseed : seedW .tinymt64 e s = seedMix64 e s := rfl
  rw [hseed, seedMix64, hpasses]
  rfl

/-! ### R76: seeding forgets the registers -/

/-- Seeding writes everything but SEED from the seed alone. -/
theorem seedW_forgets (v : Variant) (e e' : Engine v.width) (s : BitVec v.width) :
    seedW v e s = { seedW v e' s with seed := e.seed } := by
  cases v <;> rfl

/-- Settles O23: between two engines only SEED, which seeding does not write, can differ. -/
theorem seedingForgetsTheState : Obligations.SeedingForgetsTheState := by
  intro v e e' s
  rw [seedW_forgets v e e' s]
  exact ⟨rfl, rfl, rfl, rfl⟩

/-! ### R72 to R74: the seeding commands -/

/-- A construction writes the constant table (R20 to R22). -/
theorem constructEngine_tableConstants (v : Variant) (e : Engine v.width) (x : BitVec v.width) :
    (constructEngine v e x).TableConstants :=
  ⟨seedW_mat1 v _ x, seedW_mat2 v _ x, seedW_tmat v _ x⟩

/-- Settles O24: a seed inside the word is the value of its word, and the construction forgets the old registers. -/
theorem constructSeedsANewInstance : Obligations.ConstructSeedsANewInstance := by
  rintro ⟨v, e, f, p, r⟩ seed hlt x
  have hx : x.toNat = seed := (BitVec.toNat_ofNat seed _).trans (Nat.mod_eq_of_lt hlt)
  have hexec (before : Engine v.width) : CompletesWith (.construct seed) before (constructEngine v e x) .done := by
    rw [← hx, constructEngine_forgets v e before]
    exact construct_completesWith v before x
  have hdecode : decode v ⟨0x01#8, x⟩ = .ok (.construct x.toNat) := decode_opcode v .construct x
  rw [hx] at hdecode
  exact ⟨constructEngine v e x, hexec e f p r, constructEngine_seed v e x,
    (congrArg BitVec.toNat (constructEngine_seed v e x)).trans hx, rfl, constructEngine_tableConstants v e x,
    fun before => hexec before f p r, hdecode⟩

/-- Settles O26: the literal 1 is the default seed's value in either width. -/
theorem constructDefaultIsConstructOne : Obligations.ConstructDefaultIsConstructOne := by
  rintro ⟨v, e, f, p, r⟩
  have hone : (defaultSeed v.width).toNat = 1 := by cases v <;> rfl
  have hexec := construct_completesWith v e (defaultSeed v.width) f p r
  rw [hone] at hexec
  exact ⟨hexec.symm, rfl, decode_opcode v .constructDefault⟩

/-- Settles O27: RESET is a rewind, which keeps SEED, is idempotent, and after a construction repeats it. -/
theorem resetRewindsToTheStoredSeed : Obligations.ResetRewindsToTheStoredSeed := by
  rintro ⟨v, e, f, p, r⟩
  have hagain := reset_completesWith v (rewindEngine v e)
  rw [rewindEngine_idem] at hagain
  refine ⟨reset_completesWith v e f p r, rewindEngine_seed v e, hagain f p r, fun x => ?_, decode_opcode v .reset⟩
  have hrepeat := reset_completesWith v (constructEngine v e x)
  rw [rewindEngine_of_seed (constructEngine_seed v e x) e] at hrepeat
  exact hrepeat f p r

end Sys2Proof.Machine

/-! The proofs of 41_state_advance.md R77 to R81: the conditional XOR in its two forms, both recurrences written out, and
what an advance reads and writes. -/

namespace Sys2Proof.Machine

/-! ### R81: the mask form of the conditional XOR -/

theorem bitMask_true {w : Nat} : (bitMask true : BitVec w) = BitVec.allOnes w := calc
  (bitMask true : BitVec w)
  _ = 0#w - (1#1).setWidth w := rfl
  _ = 0#w - 1#w := by rw [BitVec.setWidth_ofNat_one_eq_ofNat_one_of_lt Nat.one_pos]
  _ = -1#w := BitVec.zero_sub _
  _ = BitVec.allOnes w := BitVec.neg_one_eq_allOnes

theorem bitMask_false {w : Nat} : (bitMask false : BitVec w) = 0#w := calc
  (bitMask false : BitVec w)
  _ = 0#w - (0#1).setWidth w := rfl
  _ = 0#w := by rw [BitVec.setWidth_zero, BitVec.sub_self]

theorem bitMask_eq_ite {w : Nat} (c : Bool) : (bitMask c : BitVec w) = if c then BitVec.allOnes w else 0#w := by
  cases c
  case true => exact bitMask_true
  case false => exact bitMask_false

/-- XORing with the masked constant is the conditional XOR that both recurrences are built with. -/
theorem xorWhen_eq_xor_bitMask {w : Nat} (c : Bool) (a k : BitVec w) : xorWhen c a k = a ^^^ (bitMask c &&& k) := by
  cases c
  case true => rw [xorWhen_true, bitMask_true, BitVec.allOnes_and]
  case false => rw [xorWhen_false, bitMask_false, BitVec.zero_and, BitVec.xor_zero]

/-- Settles O35, by the two values of the bit. -/
theorem maskFormIsTheConditionalXor : Obligations.MaskFormIsTheConditionalXor := fun _ x a k =>
  ⟨bitMask_eq_ite (bit0 x), (xorWhen_eq_xor_bitMask (bit0 x) a k).symm, xorWhen_eq_xor_bitMask (bit0 x) a k⟩

/-! ### R77: what an advance reads and writes -/

/-- The recurrence of either variant on the state array, with MAT1 and MAT2 as they stand in their registers. -/
def advance : (v : Variant) → (mat1 mat2 : BitVec v.width) → StateArray v.width → StateArray v.width
  | .tinymt32 => advance32
  | .tinymt64 => advance64

/-- NextState writes only ST, with a function of MAT1, MAT2 and ST. -/
theorem nextState_eq_advance (v : Variant) (e : Engine v.width) :
    nextState v e = { e with st := advance v e.mat1 e.mat2 e.st } := by
  cases v <;> rfl

theorem nextState_st (v : Variant) (e : Engine v.width) :
    (nextState v e).st = advance v e.mat1 e.mat2 e.st := by
  rw [nextState_eq_advance]

/-- Settles O33: the new ST is `advance` of MAT1, MAT2 and ST, and nothing else is written. -/
theorem nextStateReadsAndWrites : Obligations.NextStateReadsAndWrites := by
  intro v e e'
  refine ⟨?writes, fun hst hmat1 hmat2 => ?reads⟩
  case writes => rw [nextState_st, nextState_eq_advance]
  case reads => rw [nextState_st, nextState_st, hst, hmat1, hmat2]

/-! ### R78, R79: the recurrences, written out -/

/-- Settles O31, by the two values of bit 0 of the new `y`. -/
theorem nextState32Recurrence : Obligations.NextState32Recurrence := by
  intro e x₀ x y
  have hnext : nextState .tinymt32 e = { e with
      st := ⟨e.st.e1, xorWhen (y.getLsbD 0) e.st.e2 e.mat1, xorWhen (y.getLsbD 0) (x ^^^ (y <<< 10)) e.mat2, y⟩ } := rfl
  refine ⟨fun hbit => ?set, fun hbit => ?clear⟩
  case set => rw [hnext, hbit, xorWhen_true, xorWhen_true]
  case clear => rw [hnext, hbit, xorWhen_false, xorWhen_false]

/-- Settles O32, by the two values of bit 0 of the final `x`. -/
theorem nextState64Recurrence : Obligations.NextState64Recurrence := by
  intro e x₀ x₁ x₂ x₃ x
  have hnext : nextState .tinymt64 e = { e with
      st := ⟨xorWhen (x.getLsbD 0) e.st.e1 e.mat1, xorWhen (x.getLsbD 0) x (e.mat2 <<< 32), e.st.e2, e.st.e3⟩ } := rfl
  refine ⟨fun hbit => ?set, fun hbit => ?clear⟩
  case set => rw [hnext, hbit, xorWhen_true, xorWhen_true]
  case clear => rw [hnext, hbit, xorWhen_false, xorWhen_false]

/-! ### R80: the spare entries of TinyMT64 -/

section SpareEntries

variable (mat1 mat2 : BitVec 64) (st : StateArray 64)

@[simp] theorem advance64_e2 : (advance64 mat1 mat2 st).e2 = st.e2 := rfl
@[simp] theorem advance64_e3 : (advance64 mat1 mat2 st).e3 = st.e3 := rfl

/-- Other values in the spare entries come through the recurrence as they are, and change nothing else. -/
theorem advance64_of_spare (a b : BitVec 64) :
    advance64 mat1 mat2 { st with e2 := a, e3 := b } = { advance64 mat1 mat2 st with e2 := a, e3 := b } := rfl

end SpareEntries

/-- Settles O34: the recurrence keeps the spare entries, whatever they hold. -/
theorem nextState64IgnoresSpareEntries : Obligations.NextState64IgnoresSpareEntries := by
  intro e a b
  have hnext (e : Engine 64) : nextState .tinymt64 e = { e with st := advance64 e.mat1 e.mat2 e.st } :=
    nextState_eq_advance .tinymt64 e
  refine ⟨?second, ?third, ?others⟩
  case second => rw [hnext, advance64_e2]
  case third => rw [hnext, advance64_e3]
  case others => rw [hnext, hnext, advance64_of_spare]

end Sys2Proof.Machine

/-! The proof of 42_extraction.md R84 and R85: both extractions as a conditional XOR of TMAT, and the branch it takes. -/

namespace Sys2Proof.Machine

/-! ### R84, R85: the extractions, written out -/

/-- The conditional XOR on the lowest bit of a word `t`, as R14's branch. -/
theorem xorWhen_bit0 {w : Nat} (t x k : BitVec w) :
    xorWhen (bit0 t) x k = if t.getLsbD 0 then x ^^^ k else x := rfl

/-- Extract32 reads ST[0], ST[2] and ST[3], and tests the sum before the XOR with ST[3] (R84). -/
theorem extract_tinymt32 (e : Engine 32) :
    extract .tinymt32 e =
      xorWhen (bit0 (e.st.e0 + (e.st.e2 >>> 8))) (e.st.e3 ^^^ (e.st.e0 + (e.st.e2 >>> 8))) e.tmat := rfl

/-- Extract64 reads ST[0] and ST[1], and tests the word it conditionally XORs (R85). -/
theorem extract_tinymt64 (e : Engine 64) :
    extract .tinymt64 e =
      xorWhen (bit0 ((e.st.e0 + e.st.e1) ^^^ (e.st.e0 >>> 8))) ((e.st.e0 + e.st.e1) ^^^ (e.st.e0 >>> 8)) e.tmat := rfl

/-- Settles O39: each extraction is the conditional XOR of TMAT, on its own test word. -/
theorem extractFormulas : Obligations.ExtractFormulas := by
  refine ⟨fun e => ?tinymt32, fun e => ?tinymt64⟩
  case tinymt32 => rw [extract_tinymt32, xorWhen_bit0]
  case tinymt64 => rw [extract_tinymt64, xorWhen_bit0]

end Sys2Proof.Machine

/-! The proofs of 43_generate_accessors.md R89 to R92, R94 and R99: what GENERATE and the two bounds answer in every
state, and the words GENERATE answers after a construction. -/

namespace Sys2Proof.Machine

/-! ### R89, R91, R92, R94: GENERATE and the bounds, in every state -/

/-- 2^W − 1 as a word is all ones (R92). -/
theorem ofNat_two_pow_sub_one (w : Nat) : BitVec.ofNat w (2 ^ w - 1) = BitVec.allOnes w := by
  have hlt : 2 ^ w - 1 < 2 ^ w := Nat.sub_lt (Nat.two_pow_pos w) Nat.one_pos
  exact BitVec.eq_of_toNat_eq (by rw [BitVec.toNat_ofNat, Nat.mod_eq_of_lt hlt, BitVec.toNat_allOnes])

/-- All ones is the greatest word (R94). -/
theorem le_allOnes {w : Nat} (x : BitVec w) : x ≤ BitVec.allOnes w := by
  rw [BitVec.le_def, BitVec.toNat_allOnes]
  exact Nat.le_sub_one_of_lt x.isLt

section Commands

variable (v : Variant) (e : Engine v.width)

/-- MIN_VALUE answers 0 and writes no register (R91). -/
theorem minValue_completesWith : CompletesWith .minValue e e (.data 0) := fun _ _ _ => rfl

/-- MAX_VALUE answers all ones and writes no register (R92). -/
theorem maxValue_completesWith : CompletesWith .maxValue e e (.data (BitVec.allOnes v.width)) := by
  rw [← ofNat_two_pow_sub_one]
  exact fun _ _ _ => rfl

end Commands

/-- Settles O41: GENERATE leaves the advanced registers, and an advance writes only ST. -/
theorem generateAdvancesThenExtracts : Obligations.GenerateAdvancesThenExtracts := by
  rintro ⟨v, e, f, p, r⟩
  obtain ⟨hwrites, -⟩ := nextStateReadsAndWrites v e e
  exact ⟨hwrites ▸ generate_completesWith v e f p r, decode_opcode v .generate⟩

/-- Settles O43. -/
theorem minValueAnswersZero : Obligations.MinValueAnswersZero := by
  rintro ⟨v, e, f, p, r⟩
  exact ⟨minValue_completesWith v e f p r, decode_opcode v .minValue⟩

/-- Settles O44: the word 2^W − 1 is all ones, and each variant's decimal value is that of its width. -/
theorem maxValueAnswersAllOnes : Obligations.MaxValueAnswersAllOnes := by
  rintro ⟨v, e, f, p, r⟩
  refine ⟨maxValue_completesWith v e f p r, ?tinymt32, ?tinymt64, decode_opcode v .maxValue⟩
  case tinymt32 => rintro rfl; exact BitVec.toNat_allOnes
  case tinymt64 => rintro rfl; exact BitVec.toNat_allOnes

/-- Settles O47: the bounds answer the least and the greatest word of the width. -/
theorem generatedWordsWithinBounds : Obligations.GeneratedWordsWithinBounds := by
  rintro ⟨v, e, f, p, r⟩
  exact ⟨nextState v e, extract v (nextState v e), 0, BitVec.allOnes v.width, generate_completesWith v e f p r,
    minValue_completesWith v e f p r, maxValue_completesWith v e f p r, rfl, BitVec.le_def.2 (Nat.zero_le _),
    le_allOnes _⟩

/-! ### R90: the k-th GENERATE after a construction -/

/-- Of the commands that reseed nothing, GENERATE advances once and every other one writes no register (R90). -/
theorem CommandEffect.eq_iterate {v : Variant} {e e₁ : Engine v.width} {m : Mnemonic} (h : CommandEffect v e m e₁)
    (hconstruct : m ≠ .construct) (hdefault : m ≠ .constructDefault) (hreset : m ≠ .reset) :
    e₁ = (nextState v)^[if m.opcode == 0x04#8 then 1 else 0] e := by
  cases h with
  | construct => exact absurd rfl hconstruct
  | constructDefault => exact absurd rfl hdefault
  | reset => exact absurd rfl hreset
  | generate | minValue | maxValue | initialSeed => rfl

section Runs

variable {v : Variant} (e : Engine v.width) (f : Bool) (p : List (Input v.width)) (r : List (Response v.width))

/-- A step on a transaction performs the command it decodes to. -/
theorem hardwareStep_of_completesWith {t : Transaction v.width} {i : Instr} {e₁ : Engine v.width}
    {a : Response v.width} (hd : decode v t = .ok i) (h : CompletesWith i e e₁ a) :
    hardwareStep { variant := v, engine := e, faulted := f, pending := .command t :: p, responses := r } =
      { variant := v, engine := e₁, faulted := f, pending := p, responses := r ++ [a] } :=
  hardwareStep_of_next (by simp [step, fetch, hd, h f p r])

/-- A step on GENERATE's word advances once and answers the word extracted, whatever is on `seed_in`. -/
theorem hardwareStep_generate (y : BitVec v.width) :
    hardwareStep { variant := v, engine := e, faulted := f, pending := .command ⟨0x04#8, y⟩ :: p, responses := r } =
      { variant := v, engine := nextState v e, faulted := f, pending := p,
        responses := r ++ [.data (extract v (nextState v e))] } :=
  hardwareStep_of_completesWith e f p r (decode_opcode v .generate y) (generate_completesWith v e)

/-- A step on a transaction that reseeds nothing, an illegal one too, answers once, and advances for GENERATE alone. -/
theorem hardwareStep_reseedsNothing {t : Transaction v.width} (ht : ReseedsNothing t) :
    ∃ f₁ a, hardwareStep { variant := v, engine := e, faulted := f, pending := .command t :: p, responses := r } =
      { variant := v, engine := (nextState v)^[if t.cmdIn == 0x04#8 then 1 else 0] e, faulted := f₁, pending := p,
        responses := r ++ [a] } := by
  obtain ⟨hp, -⟩ | ⟨_, hp, -⟩ | ⟨_, _, m, e₁, a, hp, hm, he, hs⟩ | ⟨_, _, hp, hn, hs⟩ := hardwareStep_cases
    { variant := v, engine := e, faulted := f, pending := .command t :: p, responses := r }
  · cases hp
  · cases hp
  · cases hp
    obtain ⟨⟨hconstruct, hdefault⟩, hreset⟩ := ht
    have hadvance := he.eq_iterate (by rintro rfl; exact hconstruct hm) (by rintro rfl; exact hdefault hm)
      (by rintro rfl; exact hreset hm)
    exact ⟨f, a, by rw [hs, hadvance, hm]⟩
  · cases hp
    have hillegal : ¬ t.cmdIn == 0x04#8 := by
      rw [beq_iff_eq]
      intro h
      rw [h] at hn
      exact absurd hn (by decide)
    exact ⟨true, .illegal, by rw [hs, if_neg hillegal]; rfl⟩

/-- A run over transactions that reseed nothing answers each once, and advances once for each GENERATE among them. -/
theorem hardwareRun_reseedsNothing {ts : List (Transaction v.width)} (hts : ∀ t ∈ ts, ReseedsNothing t) :
    ∃ f₁ new, hardwareRun ts.length
          { variant := v, engine := e, faulted := f, pending := ts.map .command ++ p, responses := r } =
        { variant := v, engine := (nextState v)^[ts.countP fun t => t.cmdIn == 0x04#8] e, faulted := f₁, pending := p,
          responses := r ++ new } ∧
      new.length = ts.length := by
  induction ts generalizing e f r with
  | nil => exact ⟨f, [], by rw [List.append_nil]; rfl, rfl⟩
  | cons t ts ih =>
    obtain ⟨ht, hts⟩ := List.forall_mem_cons.1 hts
    obtain ⟨f₁, a, hstep⟩ := hardwareStep_reseedsNothing e f (ts.map .command ++ p) r ht
    obtain ⟨f₂, new, hrun, hlen⟩ := ih _ f₁ (r ++ [a]) hts
    refine ⟨f₂, a :: new, ?_, by rw [List.length_cons, List.length_cons, hlen]⟩
    rw [List.length_cons, hardwareRun_succ, List.map_cons, List.cons_append, hstep, hrun, List.countP_cons,
      Function.iterate_add_apply, List.append_assoc, List.singleton_append]

end Runs

/-- Settles O42: the construction seeds, the commands between advance once for each GENERATE among them, and the last
GENERATE advances once more. -/
theorem kthGenerateAfterConstruct : Obligations.KthGenerateAfterConstruct := by
  intro v e f r x y construction ts rest hc hts s k eₖ
  obtain ⟨f₁, new, hbetween, hlen⟩ := hardwareRun_reseedsNothing (constructEngine v e x) f
    (.command ⟨0x04#8, y⟩ :: rest) (r ++ constructionAnswer construction) hts
  have hlast : nextState v ((nextState v)^[ts.countP fun t => t.cmdIn == 0x04#8] (constructEngine v e x)) = eₖ :=
    (Function.iterate_succ_apply' _ _ _).symm
  refine ⟨f₁, new, ?_, hlen⟩
  rw [hardwareRun_succ, hardwareStep_construction hc, hardwareRun_add, hbetween, hardwareRun_succ,
    hardwareStep_generate, hlast]
  rfl

/-! ### R99: the same seed, the same sequence -/

/-- The words that `k` GENERATEs answer from registers `e`, the first one first. -/
def generatedWords (v : Variant) : Nat → Engine v.width → List (BitVec v.width)
  | 0, _ => []
  | k + 1, e => extract v (nextState v e) :: generatedWords v k (nextState v e)

@[simp] theorem generatedWords_length (v : Variant) (k : Nat) (e : Engine v.width) :
    (generatedWords v k e).length = k := by
  induction k generalizing e with
  | zero => rfl
  | succ k ih => rw [generatedWords, List.length_cons, ih]

/-- A run of GENERATEs advances once for each and answers the generated words, whatever is on `seed_in`. -/
theorem hardwareRun_generates {v : Variant} (ys : List (BitVec v.width)) (e : Engine v.width) (f : Bool)
    (r : List (Response v.width)) :
    hardwareRun ys.length { variant := v, engine := e, faulted := f, responses := r,
                            pending := ys.map fun y => .command ⟨0x04#8, y⟩ } =
      { variant := v, engine := (nextState v)^[ys.length] e, faulted := f, pending := [],
        responses := r ++ (generatedWords v ys.length e).map .data } := by
  induction ys generalizing e r with
  | nil => simp [hardwareRun, generatedWords]
  | cons y ys ih =>
    rw [List.length_cons, hardwareRun_succ, List.map_cons, hardwareStep_generate, ih, Function.iterate_succ_apply,
      generatedWords, List.map_cons, List.append_assoc, List.singleton_append]

/-- A run of a construction and then GENERATEs alone, to its end. -/
theorem runToEnd_construction_generates {v : Variant} {x : BitVec v.width} {c : Input v.width}
    (hc : ConstructsWith x c) (ys : List (BitVec v.width)) (e : Engine v.width) (f : Bool)
    (r : List (Response v.width)) :
    runToEnd { variant := v, engine := e, faulted := f, responses := r,
               pending := c :: ys.map fun y => .command ⟨0x04#8, y⟩ } =
      { variant := v, engine := (nextState v)^[ys.length] (constructEngine v e x), faulted := f, pending := [],
        responses := r ++ constructionAnswer c ++
          (generatedWords v ys.length (constructEngine v e x)).map .data } := by
  rw [runToEnd, List.length_cons, List.length_map, hardwareRun_succ, hardwareStep_construction hc,
    hardwareRun_generates]

/-- Settles O48: a construction forgets the old registers, so both engines generate from the same ones. -/
theorem sameSeedSameSequence : Obligations.SameSeedSameSequence := by
  intro v x k c c' ys ys' e e' f f' r r' hc hc' hys hys'
  have hfirst := runToEnd_construction_generates hc ys e f r
  have hsecond := runToEnd_construction_generates hc' ys' e' f' r'
  rw [hys] at hfirst
  rw [hys', constructEngine_forgets v e' e x] at hsecond
  exact ⟨generatedWords v k (constructEngine v e x), generatedWords_length v k _, hfirst, hsecond⟩

end Sys2Proof.Machine

/-! The proofs of 60_exceptions.md: an illegal word faults and marks FAULTED, nothing clears the mark, the hardware goes
on from the state the fault leaves, and the seven commands raise nothing. -/

namespace Sys2Proof.Machine

/-! ### R100 and R104: what raises the exception, and what does not elaborate -/

/-- The illegal words are 0x00 and those from 0x08 on (R100). -/
theorem Byte.not_legal_iff (c : Byte) : ¬ Byte.Legal c ↔ c = 0x00#8 ∨ 0x08 ≤ c.toNat := by
  rw [← BitVec.toNat_inj, BitVec.toNat_zero, Byte.Legal]
  omega

/-- Settles O50: the words R100 names are the illegal ones, and a step on one of those faults. -/
theorem illegalCommandFaults : Obligations.IllegalCommandFaults := fun _ t _ hp hc =>
  step_of_not_legal hp ((Byte.not_legal_iff t.cmdIn).2 hc)

/-- Settles O8: the two widths build their reset states, and any other falls through both tests of `elaborate`. -/
theorem onlyTwoWidthsElaborate : Obligations.OnlyTwoWidthsElaborate := by
  intro w
  refine ⟨?builds, fun hw => ?refused⟩
  case builds =>
    rintro (rfl | rfl)
    · exact ⟨State.resetOf .tinymt32, rfl, rfl⟩
    · exact ⟨State.resetOf .tinymt64, rfl, rfl⟩
  case refused =>
    obtain ⟨h32, h64⟩ := not_or.1 hw
    have hnone : elaborate w = none := by rw [elaborate, if_neg h32, if_neg h64]
    exact ⟨by rw [powerOn, hnone]; rfl, by rw [wellFormedWidth, hnone]; rfl⟩

/-! ### R102: the seven commands raise nothing -/

section Commands

variable {v : Variant} (e : Engine v.width)

/-- CONSTRUCT_DEFAULT constructs with seed 1 and answers DONE (R73). -/
theorem constructDefault_completesWith :
    CompletesWith .constructDefault e (constructEngine v e (defaultSeed v.width)) .done := fun _ _ _ => rfl

/-- INITIAL_SEED answers SEED and writes no register (R93). -/
theorem initialSeed_completesWith : CompletesWith .initialSeed e e (.data e.seed) := fun _ _ _ => rfl

/-- A well-formed command completes, and its answer is DONE or DATA. -/
theorem wellFormed_completesWith {i : Instr} (hi : i.wellFormed v = true) :
    ∃ e₁ a, CompletesWith i e e₁ a ∧ a ≠ .illegal := by
  cases i with
  | construct seed =>
    have hlt : seed < 2 ^ v.width := of_decide_eq_true hi
    have h := construct_completesWith v e (BitVec.ofNat v.width seed)
    rw [BitVec.toNat_ofNat, Nat.mod_eq_of_lt hlt] at h
    exact ⟨_, _, h, nofun⟩
  | constructDefault => exact ⟨_, _, constructDefault_completesWith e, nofun⟩
  | reset => exact ⟨_, _, reset_completesWith v e, nofun⟩
  | generate => exact ⟨_, _, generate_completesWith v e, nofun⟩
  | minValue => exact ⟨_, _, minValue_completesWith v e, nofun⟩
  | maxValue => exact ⟨_, _, maxValue_completesWith v e, nofun⟩
  | initialSeed => exact ⟨_, _, initialSeed_completesWith e, nofun⟩

end Commands

/-- Settles O52: each command completes whatever FAULTED, the pending inputs and the responses before are. -/
theorem theSevenCommandsRaiseNothing : Obligations.TheSevenCommandsRaiseNothing := by
  rintro ⟨v, e, f, p, r⟩ i hi
  obtain ⟨e₁, a, h, ha⟩ := wellFormed_completesWith e hi
  exact ⟨e₁, a, h f p r, ha⟩

/-! ### R103: FAULTED is set by an illegal word and cleared by nothing -/

/-- A step with no illegal word next is a next state, which has FAULTED as it was. -/
theorem step_next_or_not_legal (s : State) :
    (∃ t, step s = .next t ∧ t.faulted = s.faulted) ∨
      (∃ t rest, s.pending = .command t :: rest ∧ ¬ Byte.Legal t.cmdIn) := by
  obtain ⟨-, hf⟩ | ⟨rest, hp, -⟩ | ⟨t, rest, m, -, -, hf⟩ | ⟨t, rest, hp, hn, -⟩ := fetch_cases s
  · exact .inl ⟨s, by rw [step, hf], rfl⟩
  · exact .inl ⟨_, step_rst hp, rfl⟩
  · obtain ⟨e, r, hx, -⟩ := exec_instr m { s with pending := rest } t.seedIn
    exact .inl ⟨State.complete { s with pending := rest } e r, by rw [step, hf]; exact hx, rfl⟩
  · exact .inr ⟨t, rest, hp, (selectMnemonic_eq_none_iff t.cmdIn).1 hn⟩

/-- A step of the hardware does not clear FAULTED. -/
theorem hardwareStep_faulted {s : State} (hs : s.faulted = true) : (hardwareStep s).faulted = true := by
  obtain ⟨t, ht, hkept⟩ | ⟨_, _, hp, hillegal⟩ := step_next_or_not_legal s
  · rw [hardwareStep_of_next ht, hkept, hs]
  · rw [hardwareStep_of_not_legal hp hillegal]

/-- A run of the hardware does not clear FAULTED. -/
theorem hardwareRun_faulted (n : Nat) {s : State} (hs : s.faulted = true) : (hardwareRun n s).faulted = true := by
  induction n generalizing s with
  | zero => exact hs
  | succ n ih =>
    rw [hardwareRun_succ]
    exact ih (hardwareStep_faulted hs)

/-- A run of the model that ends in a next state has FAULTED as it was. -/
theorem core_run_next_faulted (n : Nat) {s t : State} (h : Sys2Proof.core.run n s = .next t) :
    t.faulted = s.faulted := by
  induction n generalizing s with
  | zero =>
    cases h
    rfl
  | succ n ih =>
    obtain ⟨s₁, hs₁, hkept⟩ | ⟨_, _, hp, hillegal⟩ := step_next_or_not_legal s
    · rw [core_run_of_next n hs₁] at h
      exact (ih h).trans hkept
    · rw [core_run_of_fault n (step_of_not_legal hp hillegal)] at h
      cases h

/-- Settles O53, the runs by induction on the number of steps: a next state keeps the mark and a fault sets it. -/
theorem faultedIsNeverCleared : Obligations.FaultedIsNeverCleared :=
  ⟨fun _ _ _ hp h => ⟨_, step_of_not_legal hp h, rfl, rfl, hardwareStep_of_not_legal hp h⟩,
    fun _ n hs => hardwareRun_faulted n hs, fun _ _ n h => core_run_next_faulted n h⟩

/-! ### R107: the hardware goes on after ILLEGAL -/

/-- A transaction with a legal word decodes to a command. -/
theorem decode_of_legal {v : Variant} {t : Transaction v.width} (h : Byte.Legal t.cmdIn) :
    ∃ m : Mnemonic, decode v t = .ok (m.instr t.seedIn.toNat) := by
  obtain ⟨m, -, hd⟩ | ⟨hn, -⟩ := decode_cases v t
  · exact ⟨m, hd⟩
  · exact absurd h ((selectMnemonic_eq_none_iff t.cmdIn).1 hn)

/-- Settles O54: the illegal word leaves the registers, and what the legal command writes and answers depends on them
alone. -/
theorem hardwareGoesOnAfterIllegal : Obligations.HardwareGoesOnAfterIllegal := by
  intro v e f t t' rest r ht ht'
  obtain ⟨m, hd⟩ := decode_of_legal ht'
  obtain ⟨e₁, a, hx⟩ := exec_instr_from_registers m v e t'.seedIn
  refine ⟨e₁, a, hardwareStep_of_completesWith e f rest r hd hx, ?_⟩
  have hafter := hardwareStep_of_completesWith e true rest (r ++ [.illegal]) hd hx
  rw [List.append_assoc, List.singleton_append] at hafter
  rw [hardwareRun_succ, hardwareStep_of_not_legal rfl ht]
  exact hafter

end Sys2Proof.Machine

/-! The proofs of 70_reset_and_hazards.md: what `rst` and the other ways to reseed leave, the first word generated after
`rst`, and that a list of inputs is performed to its end. -/

namespace Sys2Proof.Machine

/-! ### R113 and R116: the ways to reseed -/

/-- Settles O13. -/
theorem rstConstructsSeedOne : Obligations.RstConstructsSeedOne := fun _ _ hp => step_rst hp

/-- A construction is Seed_W with the new seed put in SEED, in either order, since Seed_W does not read SEED (R76). -/
theorem constructEngine_eq_seedW (v : Variant) (e : Engine v.width) (x : BitVec v.width) :
    constructEngine v e x = { seedW v e x with seed := x } := seedW_forgets v { e with seed := x } e x

/-- Settles O15: the first three rows are constructions, and RESET is Seed_W of the seed held, which it keeps. -/
theorem waysToReseed : Obligations.WaysToReseed := by
  rintro ⟨v, e, f, p, r⟩
  refine ⟨fun rest hp => ?rst, fun x => ?construct, ?constructDefault, ?reset⟩
  case rst =>
    rw [step_rst hp, applyRst, constructEngine_eq_seedW]
    rfl
  case construct => exact constructEngine_eq_seedW v e x ▸ construct_completesWith v e x f p r
  case constructDefault => exact constructEngine_eq_seedW v e 1#v.width ▸ constructDefault_completesWith e f p r
  case reset =>
    have hrewind : rewindEngine v e = { seedW v e e.seed with seed := e.seed } := seedW_forgets v e e e.seed
    exact hrewind ▸ reset_completesWith v e f p r

/-! ### R115: after `rst` -/

/-- A step with a legal input next is a next state, the hardware's own. -/
theorem step_of_legal {s : State} {i : Input s.variant.width} {rest : List (Input s.variant.width)}
    (hp : s.pending = i :: rest) (hi : i.Legal) : step s = .next (hardwareStep s) := by
  obtain ⟨t, ht, -⟩ | ⟨t, _, hillegal, hn⟩ := step_next_or_not_legal s
  · rw [ht, hardwareStep_of_next ht]
  · obtain ⟨rfl, -⟩ := List.cons.inj (hp.symm.trans hillegal)
    exact absurd hi hn

/-- From registers that RESET leaves as they are, no command but a construction or GENERATE changes any register. -/
theorem CommandEffect.eq_of_rewound {v : Variant} {e e₁ : Engine v.width} {m : Mnemonic} (h : CommandEffect v e m e₁)
    (hrewound : rewindEngine v e = e) (hconstruct : m ≠ .construct) (hdefault : m ≠ .constructDefault)
    (hgenerate : m ≠ .generate) : e₁ = e := by
  cases h with
  | construct => exact absurd rfl hconstruct
  | constructDefault => exact absurd rfl hdefault
  | reset => exact hrewound
  | generate => exact absurd rfl hgenerate
  | minValue | maxValue | initialSeed => rfl

/-- The registers `rst` leaves are those RESET rewinds them to. -/
theorem rewindEngine_resetEngine (v : Variant) : rewindEngine v (resetEngine v) = resetEngine v :=
  calc rewindEngine v (resetEngine v)
    _ = rewindEngine v (constructEngine v (resetEngine v) (defaultSeed v.width)) := by rw [constructEngine_defaultSeed]
    _ = constructEngine v (resetEngine v) (defaultSeed v.width) := rewindEngine_of_seed (constructEngine_seed v _ _) _
    _ = resetEngine v := constructEngine_defaultSeed v _

section Runs

variable {v : Variant} (e : Engine v.width) (f : Bool) (p : List (Input v.width)) (r : List (Response v.width))

/-- A step on `rst` puts the registers at R33's table and answers nothing. -/
theorem hardwareStep_rst :
    hardwareStep { variant := v, engine := e, faulted := f, pending := .rst :: p, responses := r } =
      { variant := v, engine := resetEngine v, faulted := f, pending := p, responses := r } := by
  rw [hardwareStep_of_next (step_rst rfl), applyRst_eq]

/-- A step on a transaction answers once; it writes what the command of its word writes, or no register. -/
theorem hardwareStep_command (t : Transaction v.width) :
    ∃ e₁ f₁ a, hardwareStep { variant := v, engine := e, faulted := f, pending := .command t :: p, responses := r } =
        { variant := v, engine := e₁, faulted := f₁, pending := p, responses := r ++ [a] } ∧
      (e₁ = e ∨ ∃ m : Mnemonic, t.cmdIn = m.opcode ∧ CommandEffect v e m e₁) := by
  obtain ⟨m, hm, hd⟩ | ⟨hn, -⟩ := decode_cases v t
  · obtain ⟨e₁, a, hx, he⟩ :=
      exec_instr m { variant := v, engine := e, faulted := f, pending := p, responses := r } t.seedIn
    exact ⟨e₁, f, a, hardwareStep_of_next (by simp [step, fetch, hd, hx, State.complete]), .inr ⟨m, hm, he⟩⟩
  · exact ⟨e, true, .illegal, hardwareStep_of_not_legal rfl ((selectMnemonic_eq_none_iff t.cmdIn).1 hn), .inl rfl⟩

variable {e} in
/-- From registers that RESET leaves as they are, a run over transactions that construct nothing and are no GENERATE,
illegal ones too, answers each once and changes no register. -/
theorem hardwareRun_of_rewound {ts : List (Transaction v.width)} (hrewound : rewindEngine v e = e)
    (hts : ∀ t ∈ ts, ConstructsNothing t ∧ t.cmdIn ≠ 0x04#8) :
    ∃ f₁ new, hardwareRun ts.length
          { variant := v, engine := e, faulted := f, pending := ts.map .command ++ p, responses := r } =
        { variant := v, engine := e, faulted := f₁, pending := p, responses := r ++ new } ∧
      new.length = ts.length := by
  induction ts generalizing f r with
  | nil => exact ⟨f, [], by rw [List.append_nil]; rfl, rfl⟩
  | cons t ts ih =>
    obtain ⟨⟨⟨hconstruct, hdefault⟩, hgenerate⟩, hts⟩ := List.forall_mem_cons.1 hts
    obtain ⟨e₁, f₁, a, hstep, heffect⟩ := hardwareStep_command e f (ts.map .command ++ p) r t
    have hkept : e₁ = e := by
      obtain hkept | ⟨m, hm, he⟩ := heffect
      · exact hkept
      · exact he.eq_of_rewound hrewound (by rintro rfl; exact hconstruct hm) (by rintro rfl; exact hdefault hm)
          (by rintro rfl; exact hgenerate hm)
    obtain ⟨f₂, new, hrun, hlen⟩ := ih f₁ (r ++ [a]) hts
    refine ⟨f₂, a :: new, ?_, by rw [List.length_cons, List.length_cons, hlen]⟩
    rw [List.length_cons, hardwareRun_succ, List.map_cons, List.cons_append, hstep, hkept, hrun, List.append_assoc,
      List.singleton_append]

end Runs

/-- Settles O14: the commands between leave the registers as `rst` left them, so GENERATE answers the first word of
seed 1; and a step on `rst`, like one on a legal command, is a next state. -/
theorem firstWordAfterRst : Obligations.FirstWordAfterRst := by
  intro v e f r rest
  refine ⟨?firstWord, fun t ht => ?accepted⟩
  case firstWord =>
    intro ts y hts s
    obtain ⟨f₁, new, hbetween, hlen⟩ := hardwareRun_of_rewound f (.command ⟨0x04#8, y⟩ :: rest) r
      (rewindEngine_resetEngine v) hts
    refine ⟨f₁, new, extract v (nextState v (resetEngine v)), ?_, hlen, by rintro rfl; decide, by rintro rfl; decide⟩
    rw [hardwareRun_succ, hardwareStep_rst, hardwareRun_add, hbetween, hardwareRun_succ, hardwareStep_generate]
    rfl
  case accepted =>
    exact ⟨_, (core_run_of_next 1 (step_rst rfl)).trans
      (core_run_of_next 0 (step_of_legal (i := .command t) (rest := rest) rfl ht))⟩

/-! ### R125: a list of inputs is performed to its end -/

section Runs

variable {v : Variant} (e : Engine v.width) (f : Bool) (p : List (Input v.width)) (r : List (Response v.width))

/-- A step takes the next input off the pending ones, and answers once exactly when it is a command. -/
theorem hardwareStep_input (i : Input v.width) :
    ∃ e₁ f₁ new, hardwareStep { variant := v, engine := e, faulted := f, pending := i :: p, responses := r } =
        { variant := v, engine := e₁, faulted := f₁, pending := p, responses := r ++ new } ∧
      new.length = ([i].filter Input.isCommand).length := by
  cases i with
  | rst => exact ⟨resetEngine v, f, [], by rw [hardwareStep_rst, List.append_nil], rfl⟩
  | command t =>
    obtain ⟨e₁, f₁, a, hstep, -⟩ := hardwareStep_command e f p r t
    exact ⟨e₁, f₁, [a], hstep, rfl⟩

/-- As many steps as inputs are pending leave none, and answer once for each command. -/
theorem hardwareRun_pending :
    ∃ e₁ f₁ new, hardwareRun p.length { variant := v, engine := e, faulted := f, pending := p, responses := r } =
        { variant := v, engine := e₁, faulted := f₁, pending := [], responses := r ++ new } ∧
      new.length = (p.filter Input.isCommand).length := by
  induction p generalizing e f r with
  | nil => exact ⟨e, f, [], by rw [List.append_nil]; rfl, rfl⟩
  | cons i p ih =>
    obtain ⟨e₁, f₁, new, hstep, hlen⟩ := hardwareStep_input e f p r i
    obtain ⟨e₂, f₂, more, hrun, hmore⟩ := ih e₁ f₁ (r ++ new)
    refine ⟨e₂, f₂, new ++ more, ?_, ?_⟩
    · rw [List.length_cons, hardwareRun_succ, hstep, hrun, List.append_assoc]
    · rw [List.length_append, hlen, hmore, ← List.length_append, ← List.filter_append, List.singleton_append]

/-- The model runs as many steps as inputs are pending exactly when every one of them is legal: the first illegal one
stops it. -/
theorem core_run_pending_next_iff :
    (∃ t, Sys2Proof.core.run p.length { variant := v, engine := e, faulted := f, pending := p, responses := r } =
      .next t) ↔ ∀ input ∈ p, input.Legal := by
  induction p generalizing e f r with
  | nil => exact iff_of_true ⟨_, rfl⟩ nofun
  | cons i p ih =>
    rw [List.length_cons, List.forall_mem_cons]
    by_cases hi : i.Legal
    · obtain ⟨e₁, f₁, new, hstep, -⟩ := hardwareStep_input e f p r i
      rw [core_run_of_next p.length (step_of_legal rfl hi), hstep, ih, and_iff_right hi]
    · refine iff_of_false ?_ fun h => hi h.1
      cases i with
      | rst => exact absurd trivial hi
      | command t =>
        have hn : ¬ Byte.Legal t.cmdIn := hi
        rw [core_run_of_fault p.length (step_of_not_legal rfl hn)]
        exact nofun

end Runs

/-- A run of the model that ends in a next state is the hardware's run. -/
theorem hardwareRun_of_core_run_next (n : Nat) {s t : State} (h : Sys2Proof.core.run n s = .next t) :
    hardwareRun n s = t := by
  induction n generalizing s with
  | zero =>
    cases h
    rfl
  | succ n ih =>
    obtain ⟨s₁, hs₁, -⟩ | ⟨_, _, hp, hillegal⟩ := step_next_or_not_legal s
    · rw [core_run_of_next n hs₁] at h
      rw [hardwareRun_succ, hardwareStep_of_next hs₁, ih h]
    · rw [core_run_of_fault n (step_of_not_legal hp hillegal)] at h
      cases h

/-- Settles O57: each step takes one input, the model's run is the hardware's where it does not stop, and it stops at
the first illegal word alone. -/
theorem everyRunReachesItsEnd : Obligations.EveryRunReachesItsEnd := by
  rintro ⟨v, e, f, p, r⟩
  obtain ⟨e₁, f₁, new, hrun, hlen⟩ := hardwareRun_pending e f p r
  have hend : runToEnd { variant := v, engine := e, faulted := f, pending := p, responses := r } =
      { variant := v, engine := e₁, faulted := f₁, pending := [], responses := r ++ new } := hrun
  have hlegal := core_run_pending_next_iff e f p r
  refine ⟨?nonePending, ?oneResponseEach, fun hall => ?modelReachesIt,
    fun hsafe => ⟨fun ⟨t, ht, _⟩ => hlegal.1 ⟨t, ht⟩, fun hall => ?safeRun⟩⟩
  case nonePending => rw [hend]; rfl
  case oneResponseEach => rw [hend, List.length_append, hlen]
  case modelReachesIt =>
    obtain ⟨t, ht⟩ := hlegal.2 hall
    rw [runToEnd, hardwareRun_of_core_run_next _ ht]
    exact ht
  case safeRun =>
    obtain ⟨t, ht⟩ := hlegal.2 hall
    exact ⟨t, ht, (core_run_next_faulted _ ht).trans hsafe⟩

end Sys2Proof.Machine

/-! The proofs of 41_state_advance.md on the corner cases of an advance, of 40_seeding.md section 3 and
93_implementation_defined.md I12 on the degenerate states, and of the invariant that 10_state.md asks of every reachable
state. No seed leads to a degenerate state because the mixing passes can be undone: from each degenerate array, undoing
the seven passes gives an array that no seed loads. -/

namespace Sys2Proof.Machine

/-! ### Words: masks and XORs with the word's own shift -/

/-- A word that is its own left shift is zero: each of its bits is a lower one, and below the lowest stand zeros. -/
theorem eq_zero_of_eq_shiftLeft {w k : Nat} {x : BitVec w} (hk : 0 < k) (h : x = x <<< k) : x = 0#w := by
  refine BitVec.eq_of_getLsbD_eq fun i _ => ?_
  rw [BitVec.getLsbD_zero]
  induction i using Nat.strongRecOn with
  | ind i ih =>
    rw [h, BitVec.getLsbD_shiftLeft]
    by_cases hik : i < k
    · simp [hik]
    · simp [ih (i - k) (by omega) (by omega)]

/-- A word that is its own right shift is zero, since the shift halves its value. -/
theorem eq_zero_of_eq_ushiftRight {w k : Nat} {x : BitVec w} (hk : 0 < k) (h : x = x >>> k) : x = 0#w := by
  by_contra hx
  have hpos : 0 < x.toNat := Nat.pos_of_ne_zero fun h0 => hx (BitVec.eq_of_toNat_eq h0)
  have hlt : x.toNat / 2 ^ k < x.toNat := Nat.div_lt_self hpos (Nat.one_lt_two_pow hk.ne')
  have hsame := congrArg BitVec.toNat h
  rw [BitVec.toNat_ushiftRight, Nat.shiftRight_eq_div_pow] at hsame
  omega

theorem xor_shiftLeft_eq_zero_iff {w k : Nat} {x : BitVec w} (hk : 0 < k) : x ^^^ (x <<< k) = 0#w ↔ x = 0#w :=
  ⟨fun h => eq_zero_of_eq_shiftLeft hk (BitVec.xor_eq_zero_iff.1 h), by rintro rfl; simp⟩

theorem xor_ushiftRight_eq_zero_iff {w k : Nat} {x : BitVec w} (hk : 0 < k) : x ^^^ (x >>> k) = 0#w ↔ x = 0#w :=
  ⟨fun h => eq_zero_of_eq_ushiftRight hk (BitVec.xor_eq_zero_iff.1 h), by rintro rfl; simp⟩

/-- Two words, of which the mask clears the top bit of the first, have XOR zero and the second one's live bits zero
exactly when both are zero but for that bit. -/
theorem masked_xor_eq_zero_iff {w : Nat} {a b m : BitVec w} :
    ((a &&& m) ^^^ b = 0#w ∧ b &&& m = 0#w) ↔ (a &&& m = 0#w ∧ b = 0#w) := by
  rw [BitVec.xor_eq_zero_iff]
  constructor
  · rintro ⟨rfl, hb⟩
    rw [BitVec.and_assoc, BitVec.and_self] at hb
    exact ⟨hb, hb⟩
  · rintro ⟨ha, rfl⟩
    exact ⟨ha, BitVec.zero_and⟩

/-- Flipping bits outside the mask leaves the masked word. -/
theorem xor_and_of_disjoint {w : Nat} {k m : BitVec w} (h : k &&& m = 0#w) (x : BitVec w) :
    (x ^^^ k) &&& m = x &&& m := by
  have hbits (i : Nat) : (k.getLsbD i && m.getLsbD i) = false := by
    rw [← BitVec.getLsbD_and, h, BitVec.getLsbD_zero]
  refine BitVec.eq_of_getLsbD_eq fun i _ => ?_
  rw [BitVec.getLsbD_and, BitVec.getLsbD_xor, BitVec.getLsbD_and, Bool.and_xor_distrib_right, hbits, Bool.xor_false]

/-! ### R78, R79, corner cases: the top bit of the old ST[0] -/

/-- NextState32 reads ST[0] under MASK32 alone. -/
theorem advance32_of_masked (mat1 mat2 : BitVec 32) {st : StateArray 32} {x : BitVec 32}
    (h : x &&& mask32 = st.e0 &&& mask32) : advance32 mat1 mat2 { st with e0 := x } = advance32 mat1 mat2 st := by
  simp only [advance32, h]

/-- NextState64 reads ST[0] under MASK64 alone. -/
theorem advance64_of_masked (mat1 mat2 : BitVec 64) {st : StateArray 64} {x : BitVec 64}
    (h : x &&& mask64 = st.e0 &&& mask64) : advance64 mat1 mat2 { st with e0 := x } = advance64 mat1 mat2 st := by
  simp only [advance64, h]

/-- Settles O36: the flipped bit is outside the mask under which each recurrence reads ST[0]. -/
theorem topBitOfFirstEntryHasNoEffect : Obligations.TopBitOfFirstEntryHasNoEffect := by
  refine ⟨fun e => ?tinymt32, fun e => ?tinymt64⟩
  case tinymt32 =>
    rw [nextState_eq_advance .tinymt32, nextState_eq_advance .tinymt32]
    have hmasked := xor_and_of_disjoint (by decide : 0x80000000#32 &&& mask32 = 0#32) e.st.e0
    exact congrArg (fun st => { e with st := st }) (advance32_of_masked e.mat1 e.mat2 hmasked)
  case tinymt64 =>
    rw [nextState_eq_advance .tinymt64, nextState_eq_advance .tinymt64]
    have hmasked := xor_and_of_disjoint (by decide : 0x8000000000000000#64 &&& mask64 = 0#64) e.st.e0
    exact congrArg (fun st => { e with st := st }) (advance64_of_masked e.mat1 e.mat2 hmasked)

/-! ### Degenerate states -/

/-- A degenerate TinyMT32 state advances to all zeros. -/
theorem nextState_tinymt32_of_degenerate {e : Engine 32} (h : Engine.Degenerate .tinymt32 e) :
    (nextState .tinymt32 e).st = ⟨0, 0, 0, 0⟩ := by
  obtain ⟨h0, h1, h2, h3⟩ := h
  simp [nextState_st, advance, advance32, h0, h1, h2, h3, bit0, xorWhen_false]

/-- A degenerate TinyMT64 state advances to zeros in its two live entries. -/
theorem nextState_tinymt64_of_degenerate {e : Engine 64} (h : Engine.Degenerate .tinymt64 e) :
    (nextState .tinymt64 e).st = { e.st with e0 := 0, e1 := 0 } := by
  obtain ⟨h0, h1⟩ := h
  simp [nextState_st, advance, advance64, scramble64, h0, h1, bit0, xorWhen_false]

/-- From an array of zeros Extract32 returns 0. -/
theorem extract_tinymt32_of_zero {e : Engine 32} (h : e.st = ⟨0, 0, 0, 0⟩) : extract .tinymt32 e = 0 := by
  simp [extract_tinymt32, h, bit0, xorWhen_false]

/-- From two live entries of zero Extract64 returns 0. -/
theorem extract_tinymt64_of_zero {e : Engine 64} (h0 : e.st.e0 = 0) (h1 : e.st.e1 = 0) : extract .tinymt64 e = 0 := by
  simp [extract_tinymt64, h0, h1, bit0, xorWhen_false]

/-- No TinyMT32 state but a degenerate one advances to a degenerate one: the new ST[3] is zero, so nothing was XORed
with MAT1 and MAT2, and both shift steps can be undone. -/
theorem degenerate_of_nextState_tinymt32 {e : Engine 32} (h : Engine.Degenerate .tinymt32 (nextState .tinymt32 e)) :
    Engine.Degenerate .tinymt32 e := by
  have hrec := nextState32Recurrence e
  extract_lets x₀ x y at hrec
  obtain ⟨hset, hclear⟩ := hrec
  cases hbit : y.getLsbD 0 with
  | true =>
    rw [hset hbit] at h
    obtain ⟨-, -, -, hy : y = 0#32⟩ := h
    rw [hy, BitVec.getLsbD_zero] at hbit
    cases hbit
  | false =>
    rw [hclear hbit] at h
    obtain ⟨hmask : e.st.e1 &&& mask32 = 0#32, h2 : e.st.e2 = 0#32, hxy : x ^^^ (y <<< 10) = 0#32, hy : y = 0#32⟩ := h
    have hx : x = 0#32 := by rw [← hxy, hy, BitVec.zero_shiftLeft, BitVec.xor_zero]
    have h3 : e.st.e3 = 0#32 := by
      rw [← xor_ushiftRight_eq_zero_iff Nat.one_pos, ← hy, ← BitVec.xor_zero (x := e.st.e3 >>> 1), ← hx]
    have hx₀ : x₀ = 0#32 := (xor_shiftLeft_eq_zero_iff Nat.one_pos).1 hx
    have hxor : (e.st.e0 &&& mask32) ^^^ e.st.e1 = 0#32 := by
      rw [← hx₀, ← BitVec.xor_zero (x := _ ^^^ e.st.e1), ← h2]
      rfl
    obtain ⟨h0, h1⟩ := masked_xor_eq_zero_iff.1 ⟨hxor, hmask⟩
    exact ⟨h0, h1, h2, h3⟩

/-- The four shift steps of R79 can be undone. -/
theorem scramble64_eq_zero_iff {x : BitVec 64} : scramble64 x = 0#64 ↔ x = 0#64 := by
  simp only [scramble64]
  rw [xor_shiftLeft_eq_zero_iff (by decide), xor_shiftLeft_eq_zero_iff (by decide),
    xor_ushiftRight_eq_zero_iff (by decide), xor_shiftLeft_eq_zero_iff (by decide)]

/-- No TinyMT64 state but a degenerate one advances to a degenerate one: bit 0 of `MAT2 << 32` is zero, so MAT2 was not
what made the new ST[1] zero, and the shift steps can be undone. -/
theorem degenerate_of_nextState_tinymt64 {e : Engine 64} (h : Engine.Degenerate .tinymt64 (nextState .tinymt64 e)) :
    Engine.Degenerate .tinymt64 e := by
  have hrec := nextState64Recurrence e
  extract_lets x₀ x₁ x₂ x₃ x at hrec
  obtain ⟨hset, hclear⟩ := hrec
  cases hbit : x.getLsbD 0 with
  | true =>
    rw [hset hbit] at h
    obtain ⟨-, hx : x ^^^ (e.mat2 <<< 32) = 0#64⟩ := h
    rw [BitVec.xor_eq_zero_iff.1 hx, BitVec.getLsbD_shiftLeft] at hbit
    simp at hbit
  | false =>
    rw [hclear hbit] at h
    obtain ⟨hmask : e.st.e1 &&& mask64 = 0#64, hx : x = 0#64⟩ := h
    have hxor : (e.st.e0 &&& mask64) ^^^ e.st.e1 = 0#64 := scramble64_eq_zero_iff.1 hx
    exact masked_xor_eq_zero_iff.1 ⟨hxor, hmask⟩

/-- Settles O37: a degenerate state advances to zeros, and an advance to a degenerate state can be undone. -/
theorem degenerateOnlyFromDegenerate : Obligations.DegenerateOnlyFromDegenerate := by
  intro v e
  cases v with
  | tinymt32 =>
    refine ⟨⟨fun h => ?forth, degenerate_of_nextState_tinymt32⟩, fun h => ?zeros⟩
    case forth =>
      rw [Engine.Degenerate, nextState_tinymt32_of_degenerate h]
      exact ⟨BitVec.zero_and, rfl, rfl, rfl⟩
    case zeros =>
      have hst := nextState_tinymt32_of_degenerate h
      rw [extract_tinymt32_of_zero hst, hst]
      exact ⟨rfl, rfl, rfl⟩
  | tinymt64 =>
    refine ⟨⟨fun h => ?forth, degenerate_of_nextState_tinymt64⟩, fun h => ?zeros⟩
    case forth =>
      rw [Engine.Degenerate, nextState_tinymt64_of_degenerate h]
      exact ⟨BitVec.zero_and, rfl⟩
    case zeros =>
      have hst := nextState_tinymt64_of_degenerate h
      have h0 : (nextState .tinymt64 e).st.e0 = 0 := by rw [hst]
      have h1 : (nextState .tinymt64 e).st.e1 = 0 := by rw [hst]
      exact ⟨h0, h1, extract_tinymt64_of_zero h0 h1⟩

/-- An advance neither makes nor ends a degenerate state. -/
theorem nextState_degenerate_iff (v : Variant) (e : Engine v.width) : (nextState v e).Degenerate ↔ e.Degenerate :=
  (degenerateOnlyFromDegenerate v e).1.symm

/-- Nor do any number of advances. -/
theorem iterate_nextState_degenerate_iff (v : Variant) (n : Nat) (e : Engine v.width) :
    ((nextState v)^[n] e).Degenerate ↔ e.Degenerate := by
  induction n generalizing e with
  | zero => rfl
  | succ n ih => rw [Function.iterate_succ_apply, ih, nextState_degenerate_iff]

/-! ### No seed leads to a degenerate state -/

/-- A fold by a step that undoes itself is undone by the fold over the reversed list. -/
theorem foldl_reverse_foldl {α β : Type} {g : α → β → α} {l : List β} (h : ∀ i ∈ l, ∀ a, g (g a i) i = a) (a : α) :
    l.reverse.foldl g (l.foldl g a) = a := by
  induction l generalizing a with
  | nil => rfl
  | cons i l ih =>
    obtain ⟨hi, hl⟩ := List.forall_mem_cons.1 h
    rw [List.reverse_cons, List.foldl_append, List.foldl_cons, List.foldl_cons, List.foldl_nil, ih hl, hi]

section Array

variable {w : Nat} (st : StateArray w) (i : Nat)

theorem StateArray.get_set_same (x : BitVec w) : (st.set i x).get i = x := by
  have hi : i % 4 < 4 := Nat.mod_lt i (by decide)
  interval_cases h : i % 4 <;> simp [StateArray.get, StateArray.set, h]

theorem StateArray.get_set_of_ne {i j : Nat} (hij : i % 4 ≠ j % 4) (x : BitVec w) :
    (st.set i x).get j = st.get j := by
  have hi : i % 4 < 4 := Nat.mod_lt i (by decide)
  have hj : j % 4 < 4 := Nat.mod_lt j (by decide)
  interval_cases h : i % 4 <;> interval_cases h' : j % 4 <;> simp_all [StateArray.get, StateArray.set]

theorem StateArray.set_set_same (x y : BitVec w) : (st.set i x).set i y = st.set i y := by
  have hi : i % 4 < 4 := Nat.mod_lt i (by decide)
  interval_cases h : i % 4 <;> simp [StateArray.set, h]

theorem StateArray.set_get_same : st.set i (st.get i) = st := by
  have hi : i % 4 < 4 := Nat.mod_lt i (by decide)
  interval_cases h : i % 4 <;> simp [StateArray.get, StateArray.set, h]

end Array

/-- What a mixing pass of either variant does: a word made from entry `j` is XORed into entry `i`. -/
def StateArray.xorInto {w : Nat} (st : StateArray w) (i j : Nat) (g : BitVec w → BitVec w) : StateArray w :=
  st.set i (st.get i ^^^ g (st.get j))

theorem mixPass32_eq_xorInto (st : StateArray 32) (i : Nat) :
    mixPass32 st i = st.xorInto (i % 4) ((i - 1) % 4) (mixWord32 i) := rfl

theorem mixPass64_eq_xorInto (st : StateArray 64) (i : Nat) :
    mixPass64 st i = st.xorInto (i % 2) ((i - 1) % 2) (mixWord64 i) := rfl

/-- Between two different entries this undoes itself. -/
theorem StateArray.xorInto_xorInto {w : Nat} (st : StateArray w) {i j : Nat} (hij : i % 4 ≠ j % 4)
    (g : BitVec w → BitVec w) : (st.xorInto i j g).xorInto i j g = st := by
  simp only [StateArray.xorInto, get_set_same, get_set_of_ne st hij, set_set_same]
  rw [BitVec.xor_assoc, BitVec.xor_self, BitVec.xor_zero, set_get_same]

/-- The entries of a mixing pass differ. -/
theorem mixingPasses_entries_ne :
    ∀ i ∈ mixingPasses, i % 4 % 4 ≠ (i - 1) % 4 % 4 ∧ i % 2 % 4 ≠ (i - 1) % 2 % 4 := by decide

/-- Undoing the passes of SeedMix32 gives the array the seed loads. -/
theorem loadArray32_eq_undo (e : Engine 32) (s : BitVec 32) :
    loadArray32 s = mixingPasses.reverse.foldl mixPass32 (seedMix32 e s).st :=
  (foldl_reverse_foldl (fun i hi st => st.xorInto_xorInto (mixingPasses_entries_ne i hi).1 (mixWord32 i)) _).symm

/-- Undoing the passes of SeedMix64 gives the array the seed loads. -/
theorem loadArray64_eq_undo (e : Engine 64) (s : BitVec 64) :
    loadArray64 s = mixingPasses.reverse.foldl mixPass64 (seedMix64 e s).st :=
  (foldl_reverse_foldl (fun i hi st => st.xorInto_xorInto (mixingPasses_entries_ne i hi).2 (mixWord64 i)) _).symm

/-- A word whose bits below the top one are zero is zero but for that bit. -/
theorem eq_of_low_bits_eq_zero {k : Nat} {x : BitVec (k + 1)} (h : x &&& BitVec.ofNat (k + 1) (2 ^ k - 1) = 0#_) :
    x = 0#_ ∨ x = BitVec.ofNat (k + 1) (2 ^ k) := by
  have hpos : 0 < 2 ^ k := Nat.two_pow_pos k
  have hx : x.toNat < 2 ^ k * 2 := x.isLt
  have hlow := congrArg BitVec.toNat h
  rw [BitVec.toNat_and, BitVec.toNat_ofNat, Nat.mod_eq_of_lt (by rw [pow_succ]; omega),
    Nat.and_two_pow_sub_one_eq_mod, BitVec.toNat_zero] at hlow
  obtain ⟨q, hq⟩ := Nat.dvd_of_mod_eq_zero hlow
  have hq2 : q < 2 := Nat.lt_of_mul_lt_mul_left (hq ▸ hx)
  interval_cases q
  · exact .inl (BitVec.eq_of_toNat_eq hq)
  · refine .inr (BitVec.eq_of_toNat_eq ?_)
    rw [BitVec.toNat_ofNat, Nat.mod_eq_of_lt (by rw [pow_succ]; omega), hq, Nat.mul_one]

/-- Undoing the passes of SeedMix32 from a degenerate array leaves another word in ST[2] than the constant loaded. -/
theorem seedMix32_not_degenerate (e : Engine 32) (s : BitVec 32) : ¬ Engine.Degenerate .tinymt32 (seedMix32 e s) := by
  rintro ⟨h0, h1, h2, h3⟩
  have hload := loadArray32_eq_undo e s
  generalize (seedMix32 e s).st = st at h0 h1 h2 h3 hload
  obtain ⟨e0, e1, e2, e3⟩ := st
  subst h1 h2 h3
  have hconstant : mat2Of .tinymt32 = (mixingPasses.reverse.foldl mixPass32 ⟨e0, 0, 0, 0⟩).e2 :=
    congrArg StateArray.e2 hload
  obtain rfl | rfl : e0 = 0x00000000#32 ∨ e0 = 0x80000000#32 := eq_of_low_bits_eq_zero (k := 31) h0
  · exact absurd hconstant (by decide)
  · exact absurd hconstant (by decide)

/-- The spare entries after SeedMix64 are zero. -/
theorem seedMix64_spareZero (e : Engine 64) (s : BitVec 64) : Engine.SpareZero .tinymt64 (seedMix64 e s) := ⟨rfl, rfl⟩

/-- Undoing the passes of SeedMix64 from a degenerate array leaves another word in ST[1] than the constant loaded. -/
theorem seedMix64_not_degenerate (e : Engine 64) (s : BitVec 64) : ¬ Engine.Degenerate .tinymt64 (seedMix64 e s) := by
  rintro ⟨h0, h1⟩
  obtain ⟨h2, h3⟩ := seedMix64_spareZero e s
  have hload := loadArray64_eq_undo e s
  generalize (seedMix64 e s).st = st at h0 h1 h2 h3 hload
  obtain ⟨e0, e1, e2, e3⟩ := st
  subst h1 h2 h3
  have hconstant : mat2Of .tinymt64 ^^^ tmatOf .tinymt64 = (mixingPasses.reverse.foldl mixPass64 ⟨e0, 0, 0, 0⟩).e1 :=
    congrArg StateArray.e1 hload
  obtain rfl | rfl : e0 = 0x0000000000000000#64 ∨ e0 = 0x8000000000000000#64 := eq_of_low_bits_eq_zero (k := 63) h0
  · exact absurd hconstant (by decide)
  · exact absurd hconstant (by decide)

/-- Settles O29: the warm-up only advances, which makes no state degenerate. -/
theorem noSeedOfTinyMT32IsDegenerate : Obligations.NoSeedOfTinyMT32IsDegenerate := fun e s =>
  ⟨seedMix32_not_degenerate e s, fun h => seedMix32_not_degenerate e s
    ((iterate_nextState_degenerate_iff .tinymt32 warmUpAdvances _).1 h)⟩

/-- Settles O30: Seed64 is SeedMix64. -/
theorem noSeedOfTinyMT64IsDegenerate : Obligations.NoSeedOfTinyMT64IsDegenerate := seedMix64_not_degenerate

/-! ### The invariant -/

/-- What `State.Inv` says, of the registers alone. -/
structure Engine.Inv {v : Variant} (e : Engine v.width) : Prop where
  constants : e.TableConstants
  spare : e.SpareZero
  live : ¬ e.Degenerate

theorem State.inv_iff (s : State) : s.Inv ↔ s.engine.Inv :=
  ⟨fun ⟨hc, hs, hl⟩ => ⟨hc, hs, hl⟩, fun ⟨hc, hs, hl⟩ => ⟨hc, hs, hl⟩⟩

section Registers

variable (v : Variant) (e : Engine v.width) (x : BitVec v.width)

theorem seedW_spareZero : (seedW v e x).SpareZero := by
  cases v with
  | tinymt32 => trivial
  | tinymt64 => exact seedMix64_spareZero e x

theorem seedW_not_degenerate : ¬ (seedW v e x).Degenerate := by
  cases v with
  | tinymt32 => exact (noSeedOfTinyMT32IsDegenerate e x).2
  | tinymt64 => exact noSeedOfTinyMT64IsDegenerate e x

/-- Seeding establishes the invariant in any registers. -/
theorem seedW_inv : (seedW v e x).Inv where
  constants := ⟨seedW_mat1 v e x, seedW_mat2 v e x, seedW_tmat v e x⟩
  spare := seedW_spareZero v e x
  live := seedW_not_degenerate v e x

variable {v e}

theorem nextState_spareZero (h : e.SpareZero) : (nextState v e).SpareZero := by
  cases v with
  | tinymt32 => trivial
  | tinymt64 => exact h

/-- An advance keeps the invariant. -/
theorem nextState_inv (h : e.Inv) : (nextState v e).Inv where
  constants := by simpa [Engine.TableConstants] using h.constants
  spare := nextState_spareZero h.spare
  live := mt (nextState_degenerate_iff v e).1 h.live

/-- Whatever a command writes keeps the invariant. -/
theorem CommandEffect.inv {m : Mnemonic} {e₁ : Engine v.width} (heffect : CommandEffect v e m e₁) (h : e.Inv) :
    e₁.Inv := by
  cases heffect with
  | construct x => exact seedW_inv v _ x
  | constructDefault | reset => exact seedW_inv v _ _
  | generate => exact nextState_inv h
  | minValue | maxValue | initialSeed => exact h

end Registers

/-- Settles O16: the reset registers are those a construction leaves. -/
theorem invariantHoldsAtReset : Obligations.InvariantHoldsAtReset := by
  have hreset (v : Variant) : (State.resetOf v).Inv := by
    rw [State.inv_iff, State.resetOf_engine, ← constructEngine_defaultSeed v (resetEngine v)]
    exact seedW_inv v _ _
  exact ⟨hreset Config.resetVariant, hreset⟩

/-- A step of the hardware keeps the invariant. -/
theorem hardwareStep_inv {s : State} (h : s.Inv) : (hardwareStep s).Inv := by
  obtain ⟨-, hs⟩ | ⟨rest, -, hs⟩ | ⟨_, _, m, e, r, -, -, heffect, hs⟩ | ⟨_, _, -, -, hs⟩ := hardwareStep_cases s
  · rwa [hs]
  · rw [hs, State.inv_iff]
    exact seedW_inv s.variant _ _
  · rw [hs, State.inv_iff]
    exact heffect.inv ((State.inv_iff s).1 h)
  · rw [hs, State.inv_iff]
    exact (State.inv_iff s).1 h

/-- Settles O17: a next state and the state a fault leaves are both where the hardware's step leads. -/
theorem everyStepKeepsTheInvariant : Obligations.EveryStepKeepsTheInvariant := by
  refine fun s h => ⟨fun t ht => ?next, fun c left hleft => ?fault⟩
  case next => rw [← hardwareStep_of_next ht]; exact hardwareStep_inv h
  case fault =>
    have hs : hardwareStep s = left := by rw [hardwareStep, hleft, goOnFrom]
    rw [← hs]
    exact hardwareStep_inv h

end Sys2Proof.Machine

/-! The proofs of 30_encoding.md sections 1 to 4 and 6 on decoding and encoding: the encoder inverts the decoder, and
`seed_in` is sampled for CONSTRUCT alone. -/

namespace Sys2Proof

/-! ### R53, R54: the seven words, and the port they sample -/

/-- Settles O1: each word is its mnemonic's opcode. -/
theorem eachCommandWordDecodesToItsCommand : Obligations.EachCommandWordDecodesToItsCommand := fun v x =>
  ⟨decode_opcode v .construct x, decode_opcode v .constructDefault x, decode_opcode v .reset x,
    decode_opcode v .generate x, decode_opcode v .minValue x, decode_opcode v .maxValue x,
    decode_opcode v .initialSeed x⟩

/-- Of a mnemonic's command only CONSTRUCT has the seed (R53). -/
theorem Mnemonic.instr_eq_of_ne_construct {m : Mnemonic} (hm : m ≠ .construct) (x y : Nat) : m.instr x = m.instr y := by
  cases m with
  | construct => exact absurd rfl hm
  | constructDefault | reset | generate | minValue | maxValue | initialSeed => rfl

/-- What a word other than CONSTRUCT's decodes to does not depend on `seed_in` (R50). -/
theorem decode_eq_of_ne_construct {v : Variant} {c : Byte} (hc : c ≠ 0x01#8) (x y : BitVec v.width) :
    decode v ⟨c, x⟩ = decode v ⟨c, y⟩ := by
  obtain ⟨m, rfl, hd⟩ | ⟨hn, hd⟩ := decode_cases v ⟨c, x⟩
  · have hm : m ≠ .construct := by rintro rfl; exact hc rfl
    rw [decode_opcode, decode_opcode, Mnemonic.instr_eq_of_ne_construct hm x.toNat y.toNat]
  · rw [hd, decode, hn]

/-- Settles O7: the step sees the port through the decoder alone. -/
theorem seedPortIgnoredByOtherCommands : Obligations.SeedPortIgnoredByOtherCommands := by
  intro v e f c x y rest r hc
  have hsame := decode_eq_of_ne_construct hc x y
  obtain ⟨m, -, hd⟩ | ⟨-, hd⟩ := decode_cases v ⟨c, y⟩ <;>
    simp [Machine.step, Machine.fetch, hsame, hd]

/-! ### R62: decoding and encoding -/

/-- A command is the one its mnemonic and the seed on the port select, when its literal is inside the word. -/
theorem Instr.mnemonic_instr_seedPort {v : Variant} {i : Instr} (hi : i.wellFormed v = true)
    (dontCare : BitVec v.width) : i.mnemonic.instr (i.seedPort v dontCare).toNat = i := by
  cases i with
  | construct seed =>
    have hlt : seed < 2 ^ v.width := of_decide_eq_true hi
    have hseed : (BitVec.ofNat v.width seed).toNat = seed := by rw [BitVec.toNat_ofNat, Nat.mod_eq_of_lt hlt]
    exact congrArg Instr.construct hseed
  | constructDefault | reset | generate | minValue | maxValue | initialSeed => rfl

theorem Instr.mnemonic_opcode (i : Instr) : i.mnemonic.opcode = i.opcode := by
  cases i <;> rfl

/-- Settles O2: the word selects the mnemonic, and the port holds the literal. -/
theorem decodeOfEncodeIsTheCommand : Obligations.DecodeOfEncodeIsTheCommand := fun v i dontCare hi => by
  rw [encode, ← Instr.mnemonic_opcode, decode_opcode, Instr.mnemonic_instr_seedPort hi]

/-- A command the decoder makes is well formed: the port holds W bits. -/
theorem Mnemonic.instr_wellFormed (v : Variant) (m : Mnemonic) (x : BitVec v.width) :
    (m.instr x.toNat).wellFormed v = true := by
  cases m with
  | construct => exact decide_eq_true x.isLt
  | constructDefault | reset | generate | minValue | maxValue | initialSeed => rfl

/-- Encoding it drives the same value on the port. -/
theorem Mnemonic.instr_seedPort (v : Variant) (m : Mnemonic) (x : BitVec v.width) :
    (m.instr x.toNat).seedPort v x = x := by
  cases m with
  | construct => exact BitVec.ofNat_toNat v.width x |>.trans (BitVec.setWidth_eq x)
  | constructDefault | reset | generate | minValue | maxValue | initialSeed => rfl

/-- Settles O3: the decoded command's word and port are the transaction's. -/
theorem encodeOfDecodeIsTheTransaction : Obligations.EncodeOfDecodeIsTheTransaction := by
  rintro v ⟨c, x⟩ i hi
  obtain ⟨m, rfl, hd⟩ | ⟨-, hd⟩ := decode_cases v ⟨c, x⟩
  · obtain rfl : m.instr x.toNat = i := Except.ok.inj (hd.symm.trans hi)
    exact ⟨m.instr_wellFormed v x, by rw [encode, Mnemonic.instr_opcode, Mnemonic.instr_seedPort]⟩
  · exact absurd (hd.symm.trans hi) nofun

/-! ### R52: the responses -/

/-- Settles O6: the codes by the constructors of a response. -/
theorem responseCodes : Obligations.ResponseCodes := by
  refine fun w x => ⟨⟨rfl, rfl⟩, ⟨rfl, rfl⟩, ⟨rfl, rfl⟩, fun r => ?_⟩
  cases r with
  | done => exact (by decide : 0b00#2 ≠ 0b11#2)
  | data => exact (by decide : 0b01#2 ≠ 0b11#2)
  | illegal => exact (by decide : 0b10#2 ≠ 0b11#2)

end Sys2Proof

/-! The proofs on what a step may change and what stops it: 10_state.md R3 and R16, 41_state_advance.md on where an
advance is reached, 42_extraction.md on what an extraction reads, 43_generate_accessors.md R93, 60_exceptions.md R100
and 70_reset_and_hazards.md R120. -/

namespace Sys2Proof.Machine

/-! ### One step -/

/-- Settles O55. -/
theorem stepRunsTheDecodedCommand : Obligations.StepRunsTheDecodedCommand := fun s t rest i hp hd => by
  simp [step, fetch, hp, hd]

/-- Settles O56. -/
theorem idleHoldsTheRegisters : Obligations.IdleHoldsTheRegisters := fun s hp => by
  simp [step, fetch, hp]

/-- Settles O25: such a literal has no word. -/
theorem constructRefusesALargerLiteral : Obligations.ConstructRefusesALargerLiteral := fun s seed h =>
  ⟨by rw [exec, execConstruct, seedOperand_of_ge s.variant h], decide_eq_false h⟩

/-- Settles O45. -/
theorem initialSeedAnswersSeed : Obligations.InitialSeedAnswersSeed := by
  rintro ⟨v, e, f, p, r⟩
  exact ⟨initialSeed_completesWith e f p r, decode_opcode v .initialSeed⟩

/-- Settles O51: a step with no illegal word next is a next state, and an illegal word is a fault that names it. -/
theorem onlyIllegalWordsStopTheMachine : Obligations.OnlyIllegalWordsStopTheMachine := by
  intro s
  obtain ⟨t, ht, -⟩ | ⟨t, rest, hp, hillegal⟩ := step_next_or_not_legal s
  · refine ⟨fun r h => absurd (ht.symm.trans h) nofun, fun c left h => absurd (ht.symm.trans h) nofun,
      iff_of_true ⟨t, ht⟩ fun input rest hp => ?legal⟩
    by_contra hinput
    cases input with
    | rst => exact hinput trivial
    | command t' => exact absurd (ht.symm.trans (step_of_not_legal hp hinput)) nofun
  · have hfault := step_of_not_legal hp hillegal
    refine ⟨fun r h => absurd (hfault.symm.trans h) nofun, fun c left h => ?named,
      iff_of_false (fun ⟨t', h⟩ => absurd (hfault.symm.trans h) nofun) fun hlegal => hillegal (hlegal _ _ hp)⟩
    obtain ⟨rfl, -⟩ := Fault.illegalCommand.inj (Host.Outcome.fault.inj (hfault.symm.trans h))
    exact ⟨hillegal, t.seedIn, rest, hp⟩

/-! ### What a step may change -/

/-- Settles O18: of what a step can do, only `rst` and the two constructing commands write SEED. -/
theorem seedWrittenOnlyByConstruction : Obligations.SeedWrittenOnlyByConstruction := by
  intro s hchanged
  obtain ⟨-, hs⟩ | ⟨rest, hp, -⟩ | ⟨t, rest, m, e, r, hp, hm, heffect, hs⟩ | ⟨_, _, -, -, hs⟩ := hardwareStep_cases s
  · exact absurd (by rw [hs]) hchanged
  · exact ⟨.rst, rest, hp, .inl rfl⟩
  · refine ⟨.command t, rest, hp, .inr ⟨t, rfl, ?_⟩⟩
    by_cases hconstruct : m = .construct
    · exact .inl (by rw [hm, hconstruct]; rfl)
    by_cases hdefault : m = .constructDefault
    · exact .inr (by rw [hm, hdefault]; rfl)
    · exact absurd (by rw [hs, heffect.seed_eq hconstruct hdefault]) hchanged
  · exact absurd (by rw [hs]) hchanged

/-- A step of the hardware keeps the variant. -/
theorem hardwareStep_variant (s : State) : (hardwareStep s).variant = s.variant := by
  obtain ⟨-, hs⟩ | ⟨rest, -, hs⟩ | ⟨_, _, _, _, _, -, -, -, hs⟩ | ⟨_, _, -, -, hs⟩ := hardwareStep_cases s
  · rw [hs]
  · rw [hs, State.applyRst_variant]
  · rw [hs]
  · rw [hs]

/-- Settles O19, by induction on the number of steps. -/
theorem variantNeverChanges : Obligations.VariantNeverChanges := by
  intro n s
  induction n generalizing s with
  | zero => rfl
  | succ n ih => rw [hardwareRun_succ, ih, hardwareStep_variant]

/-- A command keeps the registers, reseeds them, or is GENERATE and advances them once. -/
theorem CommandEffect.keeps_reseeds_or_advances {v : Variant} {e e₁ : Engine v.width} {m : Mnemonic}
    (h : CommandEffect v e m e₁) :
    e₁ = e ∨ (∃ x, e₁ = constructEngine v e x) ∨ e₁ = rewindEngine v e ∨ (e₁ = nextState v e ∧ m = .generate) := by
  cases h with
  | construct x => exact .inr (.inl ⟨x, rfl⟩)
  | constructDefault => exact .inr (.inl ⟨_, rfl⟩)
  | reset => exact .inr (.inr (.inl rfl))
  | generate => exact .inr (.inr (.inr ⟨rfl, rfl⟩))
  | minValue | maxValue | initialSeed => exact .inl rfl

/-- Settles O38: the cases of a step, with those of a command. -/
theorem advanceOnlyByGenerate : Obligations.AdvanceOnlyByGenerate := by
  intro s
  obtain ⟨-, hs⟩ | ⟨rest, -, hs⟩ | ⟨t, rest, m, e, r, hp, hm, heffect, hs⟩ | ⟨_, rest, -, -, hs⟩ :=
    hardwareStep_cases s
  · exact ⟨s.engine, s.pending, s.faulted, s.responses, hs, .inl rfl⟩
  · exact ⟨_, rest, s.faulted, s.responses, hs, .inr (.inl ⟨_, rfl⟩)⟩
  · refine ⟨e, rest, s.faulted, s.responses ++ [r], hs, ?_⟩
    obtain hkept | hconstructed | hrewound | ⟨hadvanced, rfl⟩ := heffect.keeps_reseeds_or_advances
    · exact .inl hkept
    · exact .inr (.inl hconstructed)
    · exact .inr (.inr (.inl hrewound))
    · exact .inr (.inr (.inr ⟨hadvanced, t, hp, hm⟩))
  · exact ⟨s.engine, rest, true, s.responses ++ [.illegal], hs, .inl rfl⟩

/-! ### R84, R85: what an extraction does not read -/

/-- Shifted right by eight, a word is what it is without its low byte. -/
theorem ushiftRight_8_of_masked (x : BitVec 32) : x >>> 8 = (x &&& 0xffffff00#32) >>> 8 := by
  have hmask : 0xffffff00#32 = BitVec.allOnes 32 <<< 8 := by decide
  have hshifted : (BitVec.allOnes 32 <<< 8) >>> 8 = BitVec.allOnes 32 >>> 8 := by decide
  rw [hmask, BitVec.ushiftRight_and_distrib, hshifted, ← BitVec.ushiftRight_and_distrib, BitVec.and_allOnes]

/-- Settles O40: Extract32 sees ST[2] shifted right by eight, and neither formula names the rest. -/
theorem extractIgnores : Obligations.ExtractIgnores := by
  refine ⟨fun e e' h0 h2 h3 htmat => ?tinymt32, fun e e' h0 h1 htmat => ?tinymt64⟩
  case tinymt32 =>
    rw [extract_tinymt32, extract_tinymt32, ushiftRight_8_of_masked e.st.e2, ushiftRight_8_of_masked e'.st.e2, h0, h2,
      h3, htmat]
  case tinymt64 => rw [extract_tinymt64, extract_tinymt64, h0, h1, htmat]

/-! ### R93: INITIAL_SEED after a construction -/

/-- Settles O46: the construction writes `x` to SEED, and the commands between keep it. -/
theorem initialSeedSurvivesResetAndGenerate : Obligations.InitialSeedSurvivesResetAndGenerate := by
  intro v e f r x y construction ts rest hc hts s
  obtain ⟨e₁, f₁, new, hbetween, hlen, hseed⟩ := hardwareRun_constructsNothing (constructEngine v e x) f
    (.command ⟨0x07#8, y⟩ :: rest) (r ++ constructionAnswer construction) hts
  have hx : e₁.seed = x := hseed.trans (constructEngine_seed v e x)
  have hlast : hardwareStep { variant := v, engine := e₁, faulted := f₁, pending := .command ⟨0x07#8, y⟩ :: rest,
                              responses := r ++ constructionAnswer construction ++ new } =
      { variant := v, engine := e₁, faulted := f₁, pending := rest,
        responses := r ++ constructionAnswer construction ++ new ++ [.data e₁.seed] } :=
    hardwareStep_of_completesWith e₁ f₁ rest _ (decode_opcode v .initialSeed y) (initialSeed_completesWith e₁)
  refine ⟨e₁, f₁, new, ?_, hlen⟩
  rw [hardwareRun_succ, hardwareStep_construction hc, hardwareRun_add, hbetween, hardwareRun_succ, hlast, hx]
  rfl

/-! ### R120: schedules of two issuers -/

/-- A schedule is an order of the inputs of both issuers. -/
theorem Interleaving.perm {α : Type} {xs ys zs : List α} (h : Interleaving xs ys zs) : zs.Perm (xs ++ ys) := by
  induction h with
  | nil => exact .nil
  | left x _ ih => exact ih.cons x
  | right y _ ih => exact (ih.cons y).trans List.perm_middle.symm

/-- Settles O59: a schedule holds as many GENERATEs as the two lists, and a run of it advances once for each. -/
theorem everyScheduleAdvancesAlike : Obligations.EveryScheduleAdvancesAlike := by
  intro v e f r xs ys zs hschedule hts
  have hperm := hschedule.perm
  obtain ⟨f₁, new, hrun, -⟩ :=
    hardwareRun_reseedsNothing e f [] r fun t ht => hts t (hperm.mem_iff.1 ht)
  rw [hperm.countP_eq, List.countP_append, List.append_nil] at hrun
  refine ⟨f₁, r ++ new, ?_⟩
  rw [runToEnd, List.length_map]
  exact hrun

end Sys2Proof.Machine

/-! The proofs of 30_encoding.md section 6: how a line is cut into words (R58, R61), what a literal spells (R59), what a
line with a mnemonic assembles to, and that a program is assembled line by line. -/

namespace Sys2Proof

/-! ### R58, R61: pieces, comments and words -/

/-- The model's cut is the library's. -/
theorem pieces_eq_splitOn (sep : Char) (l : List Char) : pieces sep l = l.splitOn sep := by
  induction l with
  | nil => rw [pieces, List.splitOn_nil]
  | cons c cs ih =>
    rw [pieces, List.splitOn_cons_eq_if_modifyHead, ih]
    by_cases hc : c = sep
    · simp [hc]
    · cases hcs : cs.splitOn sep with
      | nil => exact absurd hcs (List.splitOn_ne_nil sep cs)
      | cons p ps => simp [hc]

/-- Text without a semicolon stands before any comment. -/
theorem dropComment_append {text : List Char} (h : ';' ∉ text) (rest : List Char) :
    dropComment (text ++ rest) = text ++ dropComment rest :=
  List.takeWhile_append_of_pos fun _ hc => bne_iff_ne.2 (ne_of_mem_of_not_mem hc h)

/-- Text without a semicolon has no comment. -/
theorem dropComment_of_not_mem {text : List Char} (h : ';' ∉ text) : dropComment text = text := by
  have happend := dropComment_append h []
  rw [List.append_nil] at happend
  exact happend.trans (List.append_nil text)

/-- A comment may be put after any line, one that has a comment too. -/
theorem dropComment_comment (line comment : List Char) : dropComment (line ++ ';' :: comment) = dropComment line := by
  induction line with
  | nil => rfl
  | cons c cs ih =>
    simp only [dropComment] at ih ⊢
    rw [List.cons_append, List.takeWhile_cons, List.takeWhile_cons, ih]

/-- A blank before a line changes no word. -/
theorem wordsOf_blank_cons (line : List Char) : wordsOf (' ' :: line) = wordsOf line := by
  simp [wordsOf, pieces]

/-- A word and a blank after it. -/
theorem wordsOf_word_append {word : List Char} (hne : word ≠ []) (hblank : ' ' ∉ word) (rest : List Char) :
    wordsOf (word ++ ' ' :: rest) = word :: wordsOf rest := by
  simp [wordsOf, pieces_eq_splitOn, List.splitOn_append_cons_self_of_not_mem hblank, hne]

/-- A word alone. -/
theorem wordsOf_word {word : List Char} (hne : word ≠ []) (hblank : ' ' ∉ word) : wordsOf word = [word] := by
  simp [wordsOf, pieces_eq_splitOn, List.splitOn_eq_singleton hblank, hne]

/-- Text that begins with another character than a blank has a word. -/
theorem wordsOf_cons_ne_nil {c : Char} (hc : c ≠ ' ') (cs : List Char) : wordsOf (c :: cs) ≠ [] := by
  cases hcs : pieces ' ' cs <;> simp [wordsOf, pieces, hc, hcs]

/-- A line has no word exactly when it is blank. -/
theorem wordsOf_eq_nil_iff (line : List Char) : wordsOf line = [] ↔ ∀ c ∈ line, c = ' ' := by
  induction line with
  | nil => exact iff_of_true rfl nofun
  | cons c cs ih =>
    rw [List.forall_mem_cons]
    by_cases hc : c = ' '
    · rw [hc, wordsOf_blank_cons, ih, and_iff_right rfl]
    · exact iff_of_false (wordsOf_cons_ne_nil hc cs) fun h => hc h.1

/-! ### R58: a line with a mnemonic -/

/-- A mnemonic's spelling is one word, without a comment or a line feed. -/
theorem Mnemonic.text_plain (m : Mnemonic) : m.text ≠ [] ∧ ' ' ∉ m.text ∧ ';' ∉ m.text ∧ '\n' ∉ m.text := by
  cases m <;> decide

theorem readMnemonic_text (m : Mnemonic) : readMnemonic m.text = some m := by
  cases m <;> decide

section Lines

variable (v : Variant)

/-- A line without words has no command. -/
theorem assembleLine_of_no_words {line : List Char} (h : wordsOf (dropComment line) = []) :
    assembleLine v line = .ok none := by
  rw [assembleLine, h]

/-- A line whose first word is a mnemonic assembles to its command with the other words as operands. -/
theorem assembleLine_of_words {line : List Char} {m : Mnemonic} {operands : List (List Char)}
    (h : wordsOf (dropComment line) = m.text :: operands) :
    assembleLine v line = (assembleWords v m operands).map some := by
  simp only [assembleLine, h, readMnemonic_text]
  cases assembleWords v m operands <;> rfl

/-- A line that has a command was read with some mnemonic. -/
theorem assembleWords_of_assembleLine {v : Variant} {line : List Char} {i : Instr}
    (h : assembleLine v line = .ok (some i)) : ∃ m operands, assembleWords v m operands = .ok i := by
  unfold assembleLine at h
  split at h
  · cases h
  next word operands hwords =>
    split at h
    · cases h
    next m hm =>
      split at h
      next j hj =>
        cases h
        exact ⟨m, operands, hj⟩
      · cases h

/-- A mnemonic alone. -/
theorem assembleLine_text (m : Mnemonic) : assembleLine v m.text = (assembleWords v m []).map some := by
  obtain ⟨hne, hblank, hcomment, -⟩ := m.text_plain
  exact assembleLine_of_words v (by rw [dropComment_of_not_mem hcomment, wordsOf_word hne hblank])

/-- A mnemonic, a blank and what follows. -/
theorem assembleLine_text_blank (m : Mnemonic) (tail : List Char) :
    assembleLine v (m.text ++ ' ' :: tail) = (assembleWords v m (wordsOf (dropComment tail))).map some := by
  obtain ⟨hne, hblank, hcomment, -⟩ := m.text_plain
  have hdrop : dropComment (' ' :: tail) = ' ' :: dropComment tail := rfl
  exact assembleLine_of_words v (by rw [dropComment_append hcomment, hdrop, wordsOf_word_append hne hblank])

/-- CONSTRUCT, a blank and one word. -/
theorem assembleLine_construct_word {word : List Char} (hne : word ≠ []) (hblank : ' ' ∉ word) (hcomment : ';' ∉ word) :
    assembleLine v (Mnemonic.construct.text ++ ' ' :: word) = (constructWith v [word]).map some := by
  rw [assembleLine_text_blank, dropComment_of_not_mem hcomment, wordsOf_word hne hblank]
  rfl

/-! ### R59, R60: the operands -/

/-- Every mnemonic but CONSTRUCT takes no operand. -/
theorem assembleWords_of_ne_construct {m : Mnemonic} (hm : m ≠ .construct) (operands : List (List Char)) :
    assembleWords v m operands = withoutOperand (m.instr 0) operands := by
  cases m with
  | construct => exact absurd rfl hm
  | constructDefault | reset | generate | minValue | maxValue | initialSeed => rfl

theorem withoutOperand_of_ne_nil {operands : List (List Char)} (h : operands ≠ []) (i : Instr) :
    withoutOperand i operands = .error .unexpectedOperand := by
  cases operands with
  | nil => exact absurd rfl h
  | cons => rfl

/-- CONSTRUCT takes a literal inside the word as it is, and refuses a larger one. -/
theorem constructWith_of_readLiteral {word : List Char} {n : Nat} (h : readLiteral word = .ok n) :
    constructWith v [word] = if n < 2 ^ v.width then .ok (.construct n) else .error .literalOutOfRange := by
  simp only [constructWith, h]

theorem constructWith_of_error {word : List Char} {refusal : AsmError} (h : readLiteral word = .error refusal) :
    constructWith v [word] = .error refusal := by
  simp only [constructWith, h]

variable {v}

theorem constructWith_wellFormed {operands : List (List Char)} {i : Instr} (h : constructWith v operands = .ok i) :
    i.wellFormed v = true := by
  match operands with
  | [] => cases h
  | [word] =>
    cases hn : readLiteral word with
    | error => rw [constructWith_of_error v hn] at h; cases h
    | ok n =>
      rw [constructWith_of_readLiteral v hn] at h
      split_ifs at h with hlt
      cases h
      exact decide_eq_true hlt
  | _ :: _ :: _ => cases h

theorem withoutOperand_ok {operands : List (List Char)} {i j : Instr} (h : withoutOperand i operands = .ok j) :
    i = j := by
  cases operands with
  | nil => exact Except.ok.inj h
  | cons => cases h

theorem assembleWords_wellFormed {m : Mnemonic} {operands : List (List Char)} {i : Instr}
    (h : assembleWords v m operands = .ok i) : i.wellFormed v = true := by
  by_cases hm : m = .construct
  · subst hm
    exact constructWith_wellFormed h
  · rw [assembleWords_of_ne_construct v hm] at h
    obtain rfl := withoutOperand_ok h
    rw [Mnemonic.instr_eq_of_ne_construct hm 0 (0#v.width).toNat]
    exact m.instr_wellFormed v 0#v.width

end Lines

/-! ### R59: literals -/

/-- The digits `ds` of a base, the most significant first, spell `n`. -/
inductive Numeral (base : Nat) : List Char → Nat → Prop where
  | digit {c : Char} {d : Nat} : digitValue base c = some d → Numeral base [c] d
  | snoc {ds : List Char} {n : Nat} {c : Char} {d : Nat} :
      Numeral base ds n → digitValue base c = some d → Numeral base (ds ++ [c]) (n * base + d)

/-- The characters below are digits in no base. -/
theorem digitValue_eq_none (base : Nat) : ∀ c ∈ [' ', ';', '\n', '-', '_', 'x'], digitValue base c = none := by
  simp [digitValue]

/-- A digit read takes the value on. -/
theorem readDigits_digit {base d : Nat} {c : Char} (hc : digitValue base c = some d) (acc : Option Nat)
    (afterDigit : Bool) (rest : List Char) :
    readDigits base acc afterDigit (c :: rest) = readDigits base (some (acc.getD 0 * base + d)) true rest := by
  have hne : c ≠ '_' := by
    rintro rfl
    rw [digitValue_eq_none base '_' (by decide)] at hc
    cases hc
  simp only [readDigits, if_neg hne, hc]

/-- What is neither a digit nor an underscore ends the reading without a value. -/
theorem readDigits_of_digitValue_none {base : Nat} {c : Char} (hc : digitValue base c = none) (hne : c ≠ '_')
    (acc : Option Nat) (afterDigit : Bool) (rest : List Char) : readDigits base acc afterDigit (c :: rest) = none := by
  simp only [readDigits, if_neg hne, hc]

theorem Numeral.readDigits_append {base n : Nat} {ds : List Char} (h : Numeral base ds n) (rest : List Char) :
    readDigits base none false (ds ++ rest) = readDigits base (some n) true rest := by
  induction h generalizing rest with
  | digit hc => rw [List.singleton_append, readDigits_digit hc, Option.getD_none, Nat.zero_mul, Nat.zero_add]
  | snoc _ hc ih => rw [List.append_assoc, ih, List.singleton_append, readDigits_digit hc, Option.getD_some]

theorem Numeral.readDigits_eq {base n : Nat} {ds : List Char} (h : Numeral base ds n) :
    readDigits base none false ds = some n := by
  have happend := h.readDigits_append []
  rwa [List.append_nil] at happend

theorem Numeral.ne_nil {base n : Nat} {ds : List Char} (h : Numeral base ds n) : ds ≠ [] := by
  cases h <;> simp

/-- A character that is no digit does not stand among digits. -/
theorem Numeral.not_mem {base n : Nat} {ds : List Char} (h : Numeral base ds n) {c : Char}
    (hc : digitValue base c = none) : c ∉ ds := by
  have hne {c' : Char} {d : Nat} (hc' : digitValue base c' = some d) : c ≠ c' := by
    rintro rfl
    cases hc.symm.trans hc'
  induction h with
  | digit hc' => simpa using hne hc'
  | snoc _ hc' ih => simp [ih, hne hc']

/-- `k` hexadecimal digits spell any number that has no more. -/
theorem numeral_hexDigits {k n : Nat} (hk : 0 < k) (h : n < 16 ^ k) : Numeral 16 (hexDigits k n) n := by
  have hdigit : ∀ d < 16, digitValue 16 (hexDigit d) = some d := by decide
  induction k, hk using Nat.le_induction generalizing n with
  | base =>
    have hn : n % 16 = n := Nat.mod_eq_of_lt h
    exact .digit (hn.symm ▸ hdigit n h)
  | succ k hk ih =>
    have hdiv : n / 16 < 16 ^ k := by rw [pow_succ] at h; omega
    have hsnoc := (ih hdiv).snoc (hdigit (n % 16) (Nat.mod_lt n (by decide)))
    rwa [Nat.div_add_mod'] at hsnoc

/-- The library's decimal digits spell their number. -/
theorem numeral_toDigits (n : Nat) : Numeral 10 (Nat.toDigits 10 n) n := by
  have hdigit : ∀ d < 10, digitValue 10 (Nat.digitChar d) = some d := by decide
  induction n using Nat.strongRecOn with
  | ind n ih =>
    by_cases hn : n < 10
    · rw [Nat.toDigits_of_lt_base hn]
      exact .digit (hdigit n hn)
    · have hsnoc := (ih (n / 10) (by omega)).snoc (hdigit (n % 10) (Nat.mod_lt n (by decide)))
      rwa [Nat.div_add_mod', ← Nat.toDigits_of_base_le (by decide) (not_lt.1 hn)] at hsnoc

/-- After `0x` a literal is read in base 16. -/
theorem readLiteral_hexadecimal (ds : List Char) :
    readLiteral ('0' :: 'x' :: ds) = (readDigits 16 none false ds).elim (.error .badLiteral) .ok := by
  rw [readLiteral]
  cases readDigits 16 none false ds <;> rfl

/-- Without `0x` and without a minus sign it is read in base 10. -/
theorem readLiteral_decimal {word : List Char} (hminus : ∀ ds, word ≠ '-' :: ds)
    (hbase : ∀ ds, word ≠ '0' :: 'x' :: ds) :
    readLiteral word = (readDigits 10 none false word).elim (.error .badLiteral) .ok := by
  unfold readLiteral
  split
  · exact absurd rfl (hminus _)
  · exact absurd rfl (hbase _)
  · cases readDigits 10 none false word <;> rfl

theorem Numeral.readLiteral_hexadecimal {n : Nat} {ds : List Char} (h : Numeral 16 ds n) :
    readLiteral ('0' :: 'x' :: ds) = .ok n := by
  rw [Sys2Proof.readLiteral_hexadecimal, h.readDigits_eq, Option.elim_some]

theorem Numeral.readLiteral_decimal {n : Nat} {ds : List Char} (h : Numeral 10 ds n) : readLiteral ds = .ok n := by
  have hminus : '-' ∉ ds := h.not_mem (digitValue_eq_none 10 '-' (by decide))
  have hbase : 'x' ∉ ds := h.not_mem (digitValue_eq_none 10 'x' (by decide))
  rw [Sys2Proof.readLiteral_decimal (by rintro _ rfl; simp at hminus) (by rintro _ rfl; simp at hbase),
    h.readDigits_eq, Option.elim_some]

/-! ### R59: underscores -/

/-- Whether a digit stood before does not matter to a character that is no underscore. -/
theorem readDigits_afterDigit (base : Nat) (acc : Option Nat) {c : Char} (hc : c ≠ '_') (rest : List Char) :
    readDigits base acc false (c :: rest) = readDigits base acc true (c :: rest) := by
  simp only [readDigits, if_neg hc]

/-- After a first value an underscore is skipped. -/
theorem readDigits_underscore (base a : Nat) (afterDigit : Bool) (rest : List Char) :
    readDigits base (some a) afterDigit ('_' :: rest) = readDigits base (some a) false rest := by
  simp only [readDigits, if_true]

/-- An underscore between two characters that are none changes nothing, whatever was read before. -/
theorem readDigits_underscore_between (base : Nat) {c d : Char} (hc : c ≠ '_') (hd : d ≠ '_')
    (before after : List Char) (acc : Option Nat) (afterDigit : Bool) :
    readDigits base acc afterDigit (before ++ c :: '_' :: d :: after) =
      readDigits base acc afterDigit (before ++ c :: d :: after) := by
  induction before generalizing acc afterDigit with
  | nil =>
    cases hvalue : digitValue base c with
    | none => rw [List.nil_append, List.nil_append, readDigits_of_digitValue_none hvalue hc,
        readDigits_of_digitValue_none hvalue hc]
    | some a => rw [List.nil_append, List.nil_append, readDigits_digit hvalue, readDigits_digit hvalue,
        readDigits_underscore, readDigits_afterDigit base _ hd]
  | cons b before ih => simp only [List.cons_append, readDigits, ih]

/-- A digit is not one of the characters that are digits in no base. -/
theorem ne_of_digitValue_ne_none {base : Nat} {c c' : Char} (hc : digitValue base c ≠ none)
    (hc' : c' ∈ [' ', ';', '\n', '-', '_', 'x']) : c ≠ c' := by
  rintro rfl
  exact hc (digitValue_eq_none base c hc')

/-- What stands before a digit says whether a literal has a minus sign or `0x`. -/
theorem readLiteral_append_decimal {before rest : List Char} {c : Char} (hminus : ∀ ds, before ≠ '-' :: ds)
    (hbase : ∀ ds, before ≠ '0' :: 'x' :: ds) (hcminus : c ≠ '-') (hcx : c ≠ 'x') (hrest : ∀ ds, rest ≠ 'x' :: ds) :
    readLiteral (before ++ c :: rest) =
      (readDigits 10 none false (before ++ c :: rest)).elim (.error .badLiteral) .ok := by
  refine readLiteral_decimal (fun ds heq => ?_) fun ds heq => ?_
  · cases before with
    | nil => exact hcminus (List.cons.inj heq).1
    | cons b before => exact hminus before (congrArg (· :: before) (List.cons.inj heq).1)
  · match before with
    | [] => exact hrest ds (List.cons.inj heq).2
    | [_] => simp_all
    | _ :: _ :: before => simp_all

/-- An underscore between two digits changes nothing in a literal, whatever stands before them. -/
theorem readLiteral_underscore_between {c d : Char} (hc : digitValue 16 c ≠ none) (hd : digitValue 16 d ≠ none)
    (before after : List Char) :
    readLiteral (before ++ c :: '_' :: d :: after) = readLiteral (before ++ c :: d :: after) := by
  have hread (base : Nat) (before : List Char) := readDigits_underscore_between base
    (ne_of_digitValue_ne_none hc (by decide)) (ne_of_digitValue_ne_none hd (by decide)) before after none false
  by_cases hminus : ∃ ds, before = '-' :: ds
  · obtain ⟨ds, rfl⟩ := hminus
    rfl
  by_cases hbase : ∃ ds, before = '0' :: 'x' :: ds
  · obtain ⟨ds, rfl⟩ := hbase
    simp only [List.cons_append, readLiteral_hexadecimal, hread]
  have hdecimal {rest : List Char} := readLiteral_append_decimal (rest := rest) (not_exists.1 hminus)
    (not_exists.1 hbase) (ne_of_digitValue_ne_none hc (by decide)) (ne_of_digitValue_ne_none hc (by decide))
  have hdx : d ≠ 'x' := ne_of_digitValue_ne_none hd (by decide)
  rw [hdecimal fun ds h => absurd (List.cons.inj h).1 (by decide), hdecimal fun ds h => hdx (List.cons.inj h).1, hread]

/-! ### R61: a program, line by line -/

/-- The first line is read, then the others. -/
theorem assembleLines_cons_eq_ok_iff (v : Variant) (line : List Char) (rest : List (List Char)) (is : List Instr) :
    assembleLines v (line :: rest) = .ok is ↔ ∃ command js,
      assembleLine v line = .ok command ∧ assembleLines v rest = .ok js ∧ command.toList ++ js = is := by
  rw [assembleLines]
  match assembleLine v line with
  | .error _ => simp
  | .ok none => simp
  | .ok (some i) => cases assembleLines v rest <;> simp

/-- A program assembles exactly when each of its lines does, to the commands of those that have one. -/
theorem assembleLines_eq_ok_iff (v : Variant) (lines : List (List Char)) (is : List Instr) :
    assembleLines v lines = .ok is ↔ ∃ commands : List (Option Instr),
      List.Forall₂ (fun line command => assembleLine v line = .ok command) lines commands ∧
        commands.filterMap id = is := by
  induction lines generalizing is with
  | nil => simp [assembleLines]
  | cons line rest ih =>
    have hcons (command : Option Instr) (commands : List (Option Instr)) :
        (command :: commands).filterMap id = command.toList ++ commands.filterMap id := by cases command <;> rfl
    simp only [assembleLines_cons_eq_ok_iff, ih]
    constructor
    · rintro ⟨command, _, hline, ⟨commands, hrest, rfl⟩, rfl⟩
      exact ⟨command :: commands, .cons hline hrest, hcons command commands⟩
    · rintro ⟨_, _ | ⟨hline, hrest⟩, rfl⟩
      exact ⟨_, _, hline, ⟨_, hrest, rfl⟩, (hcons _ _).symm⟩

/-- Every element of the first list has its partner in the second. -/
theorem exists_of_forall₂_of_mem {α β : Type} {R : α → β → Prop} {as : List α} {bs : List β} (h : List.Forall₂ R as bs)
    {a : α} (ha : a ∈ as) : ∃ b ∈ bs, R a b := by
  induction h with
  | nil => cases ha
  | cons hab _ ih =>
    obtain rfl | ha := List.mem_cons.1 ha
    · exact ⟨_, List.mem_cons_self, hab⟩
    · obtain ⟨b, hb, hR⟩ := ih ha
      exact ⟨b, List.mem_cons_of_mem _ hb, hR⟩

/-- No line of a program that assembles is refused. -/
theorem assembleLine_of_assembleLines {v : Variant} {lines : List (List Char)} {is : List Instr}
    (h : assembleLines v lines = .ok is) {line : List Char} (hline : line ∈ lines) :
    ∃ command, assembleLine v line = .ok command := by
  obtain ⟨commands, hall, -⟩ := (assembleLines_eq_ok_iff v lines is).1 h
  obtain ⟨command, -, hcommand⟩ := exists_of_forall₂_of_mem hall hline
  exact ⟨command, hcommand⟩

/-- Every command of a program is some line's. -/
theorem exists_line_of_assembleLines {v : Variant} {lines : List (List Char)} {is : List Instr}
    (h : assembleLines v lines = .ok is) {i : Instr} (hi : i ∈ is) : ∃ line, assembleLine v line = .ok (some i) := by
  obtain ⟨commands, hall, rfl⟩ := (assembleLines_eq_ok_iff v lines is).1 h
  obtain ⟨_, hmem, rfl : _ = some i⟩ := List.mem_filterMap.1 hi
  obtain ⟨line, -, hline⟩ := exists_of_forall₂_of_mem (List.Forall₂.flip (R := flip _) hall) hmem
  exact ⟨line, hline⟩

/-- The model's joining is the library's. -/
theorem joinLines_eq_intercalate (lines : List (List Char)) : joinLines lines = ['\n'].intercalate lines := by
  match lines with
  | [] => rfl
  | [line] => simp [joinLines, List.intercalate]
  | line :: next :: rest =>
    rw [joinLines, joinLines_eq_intercalate (next :: rest)]
    simp [List.intercalate]

/-- Lines joined by line feeds are the lines the program is read from. -/
theorem assemble_joinLines (v : Variant) {lines : List (List Char)} (hfeed : ∀ line ∈ lines, '\n' ∉ line) :
    assemble v (joinLines lines) = assembleLines v lines := by
  cases lines with
  | nil => rfl
  | cons line rest =>
    rw [assemble, pieces_eq_splitOn, joinLines_eq_intercalate, List.splitOn_intercalate _ hfeed (List.cons_ne_nil _ _)]

/-! ### The statements on the assembler -/

/-- Settles O11: the comment is dropped before the line is cut into words. -/
theorem commentsAreIgnored : Obligations.CommentsAreIgnored := fun v line comment => by
  rw [assembleLine, assembleLine, dropComment_comment]

/-- Settles O60: a blank line has no word, and the text is cut into the lines it was joined from. -/
theorem programIsReadLineByLine : Obligations.ProgramIsReadLineByLine := by
  refine fun v => ⟨fun blank hblank => ?blankLine, fun lines hfeed => ⟨fun commands hall => ?inOrder,
    fun line hline refusal hrefused => ?refused⟩⟩
  case blankLine =>
    have hcomment : ';' ∉ blank := fun h => absurd (hblank ';' h) (by decide)
    exact assembleLine_of_no_words v (by rw [dropComment_of_not_mem hcomment, (wordsOf_eq_nil_iff blank).2 hblank])
  case inOrder =>
    rw [assemble_joinLines v hfeed]
    exact (assembleLines_eq_ok_iff v lines _).2 ⟨commands, hall, rfl⟩
  case refused =>
    rw [assemble_joinLines v hfeed]
    cases his : assembleLines v lines with
    | error first => exact ⟨first, rfl⟩
    | ok is =>
      obtain ⟨command, hcommand⟩ := assembleLine_of_assembleLines his hline
      exact absurd (hrefused.symm.trans hcommand) nofun

/-- CONSTRUCT, a blank and a word that is a literal of value `n`. -/
theorem assembleLine_construct_literal (v : Variant) {word : List Char} {n : Nat} (hread : readLiteral word = .ok n)
    (hne : word ≠ []) (hblank : ' ' ∉ word) (hcomment : ';' ∉ word) :
    assembleLine v (Mnemonic.construct.text ++ ' ' :: word) =
      if n < 2 ^ v.width then .ok (some (.construct n)) else .error .literalOutOfRange := by
  rw [assembleLine_construct_word v hne hblank hcomment, constructWith_of_readLiteral v hread]
  split_ifs <;> rfl

/-- CONSTRUCT with `k` hexadecimal digits. -/
theorem assembleLine_construct_hexDigits (v : Variant) {k n : Nat} (hk : 0 < k) (hn : n < 16 ^ k) :
    assembleLine v (Mnemonic.construct.text ++ ' ' :: '0' :: 'x' :: hexDigits k n) =
      if n < 2 ^ v.width then .ok (some (.construct n)) else .error .literalOutOfRange := by
  have hdigits := numeral_hexDigits hk hn
  exact assembleLine_construct_literal v hdigits.readLiteral_hexadecimal (List.cons_ne_nil _ _)
    (by simpa using hdigits.not_mem (digitValue_eq_none 16 ' ' (by decide)))
    (by simpa using hdigits.not_mem (digitValue_eq_none 16 ';' (by decide)))

/-- Settles O9: a literal is taken only inside the word, and each refusal is that of the operands as written. -/
theorem assembledCommandsAreWellFormed : Obligations.AssembledCommandsAreWellFormed := by
  intro v
  have hwellFormed (line : List Char) (i : Instr) (h : assembleLine v line = .ok (some i)) : i.wellFormed v = true := by
    obtain ⟨m, operands, hwords⟩ := assembleWords_of_assembleLine h
    exact assembleWords_wellFormed hwords
  refine ⟨hwellFormed, fun text is his i hi => ?program, ⟨?alone, fun tail htail => ?missing⟩,
    fun m tail hm htail => ?unexpected, fun k n hlow hn => ?hexadecimal, fun n => ?decimal,
    fun word hblank hcomment => ?negative,
    fun before after c d hc hd => readLiteral_underscore_between hc hd before after⟩
  case program =>
    obtain ⟨line, hline⟩ := exists_line_of_assembleLines his hi
    exact hwellFormed line i hline
  case alone => rw [assembleLine_text]; rfl
  case missing => rw [assembleLine_text_blank, (wordsOf_eq_nil_iff _).2 htail]; rfl
  case unexpected =>
    have hwords : wordsOf (dropComment tail) ≠ [] := fun h => by
      obtain ⟨c, hmem, hc⟩ := htail
      exact hc ((wordsOf_eq_nil_iff _).1 h c hmem)
    rw [assembleLine_text_blank, assembleWords_of_ne_construct v hm, withoutOperand_of_ne_nil hwords]
    rfl
  case hexadecimal =>
    have hk : 0 < k := by
      by_contra hk
      obtain rfl : k = 0 := by omega
      have hpos : 0 < 2 ^ v.width := Nat.two_pow_pos _
      omega
    rw [assembleLine_construct_hexDigits v hk hn, if_neg (not_lt.2 hlow)]
  case decimal =>
    have hdigits := numeral_toDigits n
    exact assembleLine_construct_literal v hdigits.readLiteral_decimal hdigits.ne_nil
      (hdigits.not_mem (digitValue_eq_none 10 ' ' (by decide)))
      (hdigits.not_mem (digitValue_eq_none 10 ';' (by decide)))
  case negative =>
    have hread : readLiteral ('-' :: word) = .error .negativeLiteral := rfl
    rw [assembleLine_construct_word v (List.cons_ne_nil _ _) (by simpa using hblank) (by simpa using hcomment),
      constructWith_of_error v hread]
    rfl

/-! ### From text to text -/

theorem sixteen_pow_width (v : Variant) : 16 ^ (v.width / 4) = 2 ^ v.width := by
  cases v <;> rfl

theorem Instr.construct_text (v : Variant) (seed : Nat) :
    (Instr.construct seed).text v = Mnemonic.construct.text ++ ' ' :: '0' :: 'x' :: hexDigits (v.width / 4) seed := by
  rw [Instr.text, List.append_assoc]
  rfl

/-- The digits of a seed inside the word. -/
theorem seed_numeral {v : Variant} {seed : Nat} (h : seed < 2 ^ v.width) :
    Numeral 16 (hexDigits (v.width / 4) seed) seed :=
  numeral_hexDigits (by cases v <;> decide) ((sixteen_pow_width v).symm ▸ h)

/-- A well-formed command's own text assembles to it. -/
theorem assembleLine_instr_text {v : Variant} {i : Instr} (hi : i.wellFormed v = true) :
    assembleLine v (i.text v) = .ok (some i) := by
  have hmnemonic := assembleLine_text v i.mnemonic
  cases i with
  | construct seed =>
    have hlt : seed < 2 ^ v.width := of_decide_eq_true hi
    rw [Instr.construct_text, assembleLine_construct_hexDigits v (by cases v <;> decide)
      ((sixteen_pow_width v).symm ▸ hlt), if_pos hlt]
  | constructDefault | reset | generate | minValue | maxValue | initialSeed => exact hmnemonic

/-- A well-formed command's own text is one line. -/
theorem lineFeed_not_mem_instr_text {v : Variant} {i : Instr} (hi : i.wellFormed v = true) : '\n' ∉ i.text v := by
  obtain ⟨-, -, -, hmnemonic⟩ := i.mnemonic.text_plain
  cases i with
  | construct seed =>
    have hdigits := (seed_numeral (of_decide_eq_true hi)).not_mem (digitValue_eq_none 16 '\n' (by decide))
    rw [Instr.construct_text, List.mem_append, not_or]
    exact ⟨hmnemonic, by simpa using hdigits⟩
  | constructDefault | reset | generate | minValue | maxValue | initialSeed => exact hmnemonic

/-- A program's text, one command a line, assembles to the program. -/
theorem assemble_program_text {v : Variant} {is : List Instr} (his : ∀ i ∈ is, i.wellFormed v = true) :
    assemble v (joinLines (is.map (Instr.text v))) = .ok is := by
  have hfeed : ∀ line ∈ is.map (Instr.text v), '\n' ∉ line :=
    List.forall_mem_map.2 fun i hi => lineFeed_not_mem_instr_text (his i hi)
  have hlines : List.Forall₂ (fun line command => assembleLine v line = .ok command) (is.map (Instr.text v))
      (is.map some) := by
    rw [List.forall₂_map_left_iff, List.forall₂_map_right_iff, List.forall₂_same]
    exact fun i hi => assembleLine_instr_text (his i hi)
  rw [assemble_joinLines v hfeed]
  exact (assembleLines_eq_ok_iff v _ is).2 ⟨is.map some, hlines, by rw [List.filterMap_map]; exact List.filterMap_some⟩

/-- A program's encoding is one transaction for each command, in order, that decodes to it (R62). -/
theorem encodeProgram_decodes {v : Variant} (dontCare : BitVec v.width) {is : List Instr}
    (his : ∀ i ∈ is, i.wellFormed v = true) :
    List.Forall₂ (fun input i => ∃ t, input = .command t ∧ decode v t = .ok i) (encodeProgram v dontCare is) is := by
  rw [encodeProgram, List.forall₂_map_left_iff, List.forall₂_same]
  exact fun i hi => ⟨encode v i dontCare, rfl, decodeOfEncodeIsTheCommand v i dontCare (his i hi)⟩

/-- Settles O10: a line for each command, and a transaction for each. -/
theorem assembleOfTextIsTheCommand : Obligations.AssembleOfTextIsTheCommand := fun v dontCare =>
  ⟨fun i hi => ⟨assembleLine_instr_text hi, decodeOfEncodeIsTheCommand v i dontCare hi⟩,
    fun _ his => ⟨assemble_program_text his, encodeProgram_decodes dontCare his⟩⟩

end Sys2Proof
